-- ==== Sys2Proof/Word.lean ====
section
/-! DEFINITION. The word types of the block, each at the one width the spec gives it (00_scope rule R7). -/

namespace Sys2Proof

/-- `BYTE_W` = 8: `in_accum`, `out_active`, `out_pending`, `idle_byte` (R7). -/
abbrev Byte := BitVec 8

/-- A whole command word (R44). -/
abbrev CmdWord := BitVec 64

/-- `TIME_W` = 64: `now` and `last_edge_time`, in µs (R7, R19). -/
abbrev Time := BitVec 64

/-- `TIMEOUT_W` = 32: `timeout_us`, in µs (R7, R20). -/
abbrev Micros := BitVec 32

/-- `TAG_W` = 8: the opaque tags `clock_role` and `speed` (R7, R21, R22). -/
abbrev Tag := BitVec 8

/-- `BITCOUNT_W` = 4: `bit_count`, which holds 0 to 8 (R7, R14). -/
abbrev BitCount := BitVec 4

end Sys2Proof
end

