-- ==== Sys2Proof/Config.lean ====
section
/-! DEFINITION. What the spec leaves to the implementation: the open type `Ctx`, the parameters of 00_scope rule R7,
and the free values for the registers that hold no value after FREE (10_state rule R29). -/

namespace Sys2Proof

/-- Which tokens are contexts, beside `Ctx.initial`. It has no body, so nothing can be proved of how many contexts there
are or which tokens they have. DESIGN CHOICE: notes/assumptions/5.md. -/
opaque Config.isContext : Nat → Bool

/-- `Ctx`, the OPEN type of the callback context (R7, R23, D27). Its elements are `initial` and the tokens that the opaque
`Config.isContext` admits, so a claim holds of every countable type with at least one element, whichever it is. The block
only stores a context and returns it with every completed byte. DESIGN CHOICE: notes/assumptions/5.md. -/
inductive Ctx where
  /-- Some context: ALLOC carries one (R53), so the type is not empty. -/
  | initial
  /-- Any further context. -/
  | other (token : Nat) (isContext : Config.isContext token = true)
deriving DecidableEq, Repr, Inhabited

/-- The implementation parameters that rule R7 marks "parameter". They are plain data held in the state, so that a claim
about every state is a claim about every value of them. DESIGN CHOICE (where they stand): notes/assumptions/6.md. -/
structure Params where
  /-- `OUT_FILL`: the bit shifted into `out_active[0]` by EDGE_FALL (R7, R65, D12). -/
  outFill : Bool
  /-- `OUT_ACTIVE_RESET`: `out_active` after ALLOC (R7, R28, D9). -/
  outActiveReset : Byte
  /-- `IDLE_BYTE_RESET`: `idle_byte` after ALLOC (R7, R28, D9). -/
  idleByteReset : Byte
  /-- `SPEED_RESET`: `speed` after ALLOC (R7, R28, D10). -/
  speedReset : Tag
deriving DecidableEq, Repr

/-- The defaults of rule R7. -/
def Params.default : Params :=
  { outFill := false, outActiveReset := 0xFF#8, idleByteReset := 0xFF#8, speedReset := 0x00#8 }

/-! ### Free values
FREE leaves every field but `phase`, `fault`, `irq_ok` and `sout_q` with no value (R29, R80). Each such field takes a
value of one of these constants, at the number of the draw. They have no body: nothing can be proved of a value.
DESIGN CHOICE: notes/assumptions/8.md. -/

opaque Config.freeInAccum : Nat → Byte
/-- Bounded to 0..7, because rule R30 bounds `bit_count` in every state between two commands. -/
opaque Config.freeBitCount : Nat → Fin 8
opaque Config.freeOutActive : Nat → Byte
opaque Config.freeOutPending : Nat → Byte
opaque Config.freeOutPendingValid : Nat → Bool
opaque Config.freeIdleByte : Nat → Byte
opaque Config.freeLastEdgeTime : Nat → Time
opaque Config.freeTimeoutUs : Nat → Micros
opaque Config.freeClockRole : Nat → Tag
opaque Config.freeSpeed : Nat → Tag
opaque Config.freeCbCtx : Nat → Ctx

end Sys2Proof
end

