-- ==== Sys2Proof/Syntax.lean ====
section
/-! DEFINITION. The commands of the block: the side inputs and the command word (R5, R53), the instruction of each row of
spec/opcode_table.json, and the source lines of the assembler (R54, R55). -/

namespace Sys2Proof

/-- The side inputs that may stand beside a command word (30_encoding rule R53). A command reads only those its opcode
names. -/
structure Side where
  /-- `side.now`: the time in µs at which the handler reads the time (EDGE; ignored by EDGE_FALL). -/
  now : Time
  /-- `side.ctx`: the `callback_context` argument of allocate (ALLOC). -/
  ctx : Ctx
  /-- `side.alloc_ok`: the handle's allocation succeeds (ALLOC). -/
  allocOk : Bool
  /-- `side.irq_ok`: the edge handler is registered (ALLOC). -/
  irqOk : Bool
deriving DecidableEq, Repr

/-- A command: a 64-bit word and its side inputs (00_scope rule R5). -/
structure Command where
  word : CmdWord
  side : Side
deriving DecidableEq, Repr

/-- One constructor per row of spec/opcode_table.json. The operands are the word's operand fields and the side inputs that
the row names, in the order of the assembler's form (R54). -/
inductive Instr where
  /-- EDGE_RISE (R47, R59): the serial-in sample and `side.now`. -/
  | edgeRise (sampleSin : Bool) (now : Time)
  /-- EDGE_FALL (R47, R65): payload bit 1 and `side.now`; both are ignored. -/
  | edgeFall (sampleSin : Bool) (now : Time)
  /-- SUBMIT (R48, R67): the outbound byte. -/
  | submit (imm8 : Byte)
  /-- SET_IDLE_BYTE (R48, R69). -/
  | setIdleByte (imm8 : Byte)
  /-- SET_TIMEOUT (R49, R77): the new `timeout_us`. -/
  | setTimeout (imm32 : Micros)
  /-- SET_CLOCK_ROLE (R48, R75). -/
  | setClockRole (imm8 : Tag)
  /-- SET_SPEED (R48, R76). -/
  | setSpeed (imm8 : Tag)
  /-- ALLOC (R48, R53, R79): the initial clock-role tag and the three side inputs. -/
  | alloc (imm8 : Tag) (ctx : Ctx) (allocOk irqOk : Bool)
  /-- FREE (R50, R80). -/
  | free
  /-- CB_RET (R50, R72). -/
  | cbRet
deriving DecidableEq, Repr

/-- One line of the assembler's source (R54), pseudo-instructions included (R55), with its operands as the numbers
written. Whether they are in range is `AsmLine.wf`. The `side.alloc_ok` and `side.irq_ok` operands are `none` where the
line leaves them out. -/
inductive AsmLine where
  | edgeRise (s t : Nat)
  | edgeFall
  | edge (lvl s t : Nat)
  | submit (v : Nat)
  | setIdleByte (v : Nat)
  | setTimeout (t : Nat)
  | setClockRole (r : Nat)
  | setSpeed (p : Nat)
  | alloc (r : Nat) (ctx : Ctx) (ok irq : Option Nat)
  | free
  | cbRet
  /-- `BIT s, @t` (R55): one bit period. -/
  | bit (s t : Nat)
  /-- `BYTE v, @t0, dt` (R55): eight bit periods. -/
  | byte (v t0 dt : Nat)
  /-- `CB_SEND v` (R55): the source's conventional callback. -/
  | cbSend (v : Nat)
deriving DecidableEq, Repr

end Sys2Proof
end

