-- ==== Sys2Proof/WellFormed.lean ====
section
/-! DEFINITION. Which source lines are well formed. An `Instr` is well formed by its type: each operand has exactly the
width of its field, and every value of it is legal (R47 to R50). A source line carries plain numbers, and "the assembler
refuses an operand out of range" (30_encoding rule R54). The legality of a raw command word (R51) is `legal`, in
Decode.lean. -/

namespace Sys2Proof

/-- A one-bit operand: 0 or 1. -/
def bitOk (n : Nat) : Bool := decide (n < 2)

/-- An 8-bit operand: 0 to 255 (R54). -/
def byteOk (n : Nat) : Bool := decide (n < 2 ^ 8)

/-- A 32-bit operand: 0 to 2^32-1 (R49, R54). -/
def microsOk (n : Nat) : Bool := decide (n < 2 ^ 32)

/-- A time: a 64-bit number (R53). -/
def timeOk (n : Nat) : Bool := decide (n < 2 ^ 64)

/-- The operand ranges of the assembler's forms (R54, R55). Rule R55 gives `dt` of BYTE no range and does not say what
happens where a time `t0 + k·dt` passes 2^64-1: here the whole line is refused. DESIGN CHOICE: notes/assumptions/19.md. -/
def AsmLine.wf : AsmLine → Bool
  | .edgeRise s t => bitOk s && timeOk t
  | .edgeFall => true
  | .edge lvl s t => bitOk lvl && bitOk s && timeOk t
  | .submit v => byteOk v
  | .setIdleByte v => byteOk v
  | .setTimeout t => microsOk t
  | .setClockRole r => byteOk r
  | .setSpeed p => byteOk p
  | .alloc r _ ok irq => byteOk r && ok.all bitOk && irq.all bitOk
  | .free => true
  | .cbRet => true
  | .bit s t => bitOk s && timeOk t
  | .byte v t0 dt => byteOk v && timeOk (t0 + 7 * dt)
  | .cbSend v => byteOk v

end Sys2Proof
end

