-- ==== Sys2Proof/Decode.lean ====
section
/-! DEFINITION. The decoder of command words, the encoder, the byte transport and the assembler's expansion
(30_encoding rules R44 to R55, 20_memory rule R36). -/

namespace Sys2Proof

/-! ### The fields of a command word (R44) -/

/-- Bits 63:56. -/
def opOf (w : CmdWord) : BitVec 8 := w.extractLsb' 56 8

/-- Bits 55:32, reserved. -/
def rsvOf (w : CmdWord) : BitVec 24 := w.extractLsb' 32 24

/-- Bits 31:0. -/
def payloadOf (w : CmdWord) : BitVec 32 := w.extractLsb' 0 32

/-- `lvl`, payload bit 0 of EDGE (R47). -/
def lvlOf (p : BitVec 32) : Bool := p.getLsbD 0

/-- `s`, payload bit 1 of EDGE (R47). -/
def sampleOf (p : BitVec 32) : Bool := p.getLsbD 1

/-- `imm8`, payload bits 7:0 (R48). -/
def imm8Of (p : BitVec 32) : BitVec 8 := p.extractLsb' 0 8

/-- Payload bits 31:2, must be zero in EDGE (R47). -/
def edgeMbzOf (p : BitVec 32) : BitVec 30 := p.extractLsb' 2 30

/-- Payload bits 31:8, must be zero in a byte-operand command (R48). -/
def byteMbzOf (p : BitVec 32) : BitVec 24 := p.extractLsb' 8 24

/-! ### Legality (R51) -/

/-- The predicate `legal(cmd)` of rule R51. -/
def legal (w : CmdWord) : Bool :=
  rsvOf w == 0#24 &&
  match (opOf w).toNat with
  | 0x01 => edgeMbzOf (payloadOf w) == 0#30
  | 0x10 => byteMbzOf (payloadOf w) == 0#24
  | 0x11 => byteMbzOf (payloadOf w) == 0#24
  | 0x13 => byteMbzOf (payloadOf w) == 0#24
  | 0x14 => byteMbzOf (payloadOf w) == 0#24
  | 0x20 => byteMbzOf (payloadOf w) == 0#24
  | 0x12 => true
  | 0x21 => payloadOf w == 0#32
  | 0x30 => payloadOf w == 0#32
  | _ => false

/-! ### Decoding -/

/-- Why a transport's bytes or a word are no command. The block answers ILLEGAL_COMMAND to each of the last three (R51);
a word of another width never reaches it (R34). -/
inductive DecodeError where
  /-- Not 64 bits (R34: "A model refuses a word of any other width at its decoder"). -/
  | wrongWidth
  /-- `rsv` ≠ 0 (R45). -/
  | reservedBits
  /-- `op` is not one of the nine values of rule R46. -/
  | reservedOpcode
  /-- A must-be-zero payload bit is 1 (R45, R47, R48, R50). -/
  | payloadBits
deriving DecidableEq, Repr

/-- EDGE: the clock level chooses the row (R47, R56). -/
def decodeEdge (p : BitVec 32) (d : Side) : Except DecodeError Instr :=
  if edgeMbzOf p = 0#30 then
    .ok (if lvlOf p then .edgeRise (sampleOf p) d.now else .edgeFall (sampleOf p) d.now)
  else .error .payloadBits

/-- A byte-operand command (R48). -/
def decodeByte (p : BitVec 32) (mk : BitVec 8 → Instr) : Except DecodeError Instr :=
  if byteMbzOf p = 0#24 then .ok (mk (imm8Of p)) else .error .payloadBits

/-- A command with no operand (R50). -/
def decodeNone (p : BitVec 32) (i : Instr) : Except DecodeError Instr :=
  if p = 0#32 then .ok i else .error .payloadBits

/-- The opcode map (R46). -/
def decodeOp (op : BitVec 8) (p : BitVec 32) (d : Side) : Except DecodeError Instr :=
  match op.toNat with
  | 0x01 => decodeEdge p d
  | 0x10 => decodeByte p .submit
  | 0x11 => decodeByte p .setIdleByte
  | 0x12 => .ok (.setTimeout p)
  | 0x13 => decodeByte p .setClockRole
  | 0x14 => decodeByte p .setSpeed
  | 0x20 => decodeByte p (fun r => .alloc r d.ctx d.allocOk d.irqOk)
  | 0x21 => decodeNone p .free
  | 0x30 => decodeNone p .cbRet
  | _ => .error .reservedOpcode

/-- The instruction a command stands for (R44 to R53), or why it is illegal (R51). -/
def decode (c : Command) : Except DecodeError Instr :=
  if rsvOf c.word = 0#24 then decodeOp (opOf c.word) (payloadOf c.word) c.side else .error .reservedBits

/-! ### Encoding -/

/-- `{op, rsv = 0, payload}` (R44, R45). -/
def mkWord (op : BitVec 8) (payload : BitVec 32) : CmdWord := op ++ (0#24 ++ payload)

/-- `{s, lvl}` zero-extended to the payload (R47, R54). -/
def edgePayload (s lvl : Bool) : BitVec 32 := 0#30 ++ (BitVec.ofBool s ++ BitVec.ofBool lvl)

/-- `zext_32(imm8)` (R48, R54). -/
def bytePayload (v : BitVec 8) : BitVec 32 := 0#24 ++ v

/-- The word of an instruction (R46 to R50, R54). -/
def encodeWord : Instr → CmdWord
  | .edgeRise s _ => mkWord 0x01#8 (edgePayload s true)
  | .edgeFall s _ => mkWord 0x01#8 (edgePayload s false)
  | .submit v => mkWord 0x10#8 (bytePayload v)
  | .setIdleByte v => mkWord 0x11#8 (bytePayload v)
  | .setTimeout t => mkWord 0x12#8 t
  | .setClockRole r => mkWord 0x13#8 (bytePayload r)
  | .setSpeed p => mkWord 0x14#8 (bytePayload p)
  | .alloc r _ _ _ => mkWord 0x20#8 (bytePayload r)
  | .free => mkWord 0x21#8 0#32
  | .cbRet => mkWord 0x30#8 0#32

/-- The side inputs where a command or a form names none: `alloc_ok` and `irq_ok` at the assembler's defaults (R54), the
time 0 and the context `Ctx.initial`. DESIGN CHOICE: notes/assumptions/4.md. -/
def defaultSide : Side := { now := 0#64, ctx := .initial, allocOk := true, irqOk := true }

/-- The side inputs an instruction carries (R53). -/
def encodeSide : Instr → Side
  | .edgeRise _ t => { defaultSide with now := t }
  | .edgeFall _ t => { defaultSide with now := t }
  | .submit _ => defaultSide
  | .setIdleByte _ => defaultSide
  | .setTimeout _ => defaultSide
  | .setClockRole _ => defaultSide
  | .setSpeed _ => defaultSide
  | .alloc _ c a q => { defaultSide with ctx := c, allocOk := a, irqOk := q }
  | .free => defaultSide
  | .cbRet => defaultSide

/-- The command of an instruction. -/
def encode (i : Instr) : Command := { word := encodeWord i, side := encodeSide i }

/-! ### The byte transport (R36) -/

/-- A command word as the bytes of a transport, most significant first (R36). -/
def toBytes (w : CmdWord) : List Byte :=
  [w.extractLsb' 56 8, w.extractLsb' 48 8, w.extractLsb' 40 8, w.extractLsb' 32 8,
   w.extractLsb' 24 8, w.extractLsb' 16 8, w.extractLsb' 8 8, w.extractLsb' 0 8]

/-- The command word of eight transport bytes; any other number of bytes is no command word (R34, R36). -/
def ofBytes : List Byte → Option CmdWord
  | [b7, b6, b5, b4, b3, b2, b1, b0] => some (b7 ++ (b6 ++ (b5 ++ (b4 ++ (b3 ++ (b2 ++ (b1 ++ b0)))))))
  | _ => none

/-- The decoder over the bytes of a transport: total, and a width other than 64 bits is refused (R34). -/
def decodeBytes (bs : List Byte) (d : Side) : Except DecodeError Instr :=
  match ofBytes bs with
  | some w => decode { word := w, side := d }
  | none => .error .wrongWidth

/-- The command word of `nbits` bits whose value is `w`, if that is 64 bits: "A model refuses a word of any other width at
its decoder" (R34). Every row of spec/opcode_table.json has 64. notes/assumptions/20.md. -/
def tableWord (nbits w : Nat) : Option CmdWord :=
  if nbits = 64 ∧ w < 2 ^ 64 then some (BitVec.ofNat 64 w) else none

/-- The instruction the decoder reads from a word of the opcode table, laid out as transport bytes and decoded with the
default side inputs; a word of another width is refused (R34). -/
def decodeTableWord (nbits w : Nat) : Option Instr :=
  match tableWord nbits w with
  | some cw =>
    match decodeBytes (toBytes cw) defaultSide with
    | .ok i => some i
    | .error _ => none
  | none => none

/-! ### The assembler (R54, R55) -/

/-- A bit written 0 or 1. -/
def asmBit (n : Nat) : Bool := n == 1

/-- The EDGE_FALL the assembler writes: bit 1 clear, and any time, since EDGE_FALL ignores it (R54). The time is 0.
DESIGN CHOICE: notes/assumptions/19.md. -/
def asmFall : Instr := .edgeFall false 0#64

/-- `BIT s, @t`: EDGE_FALL then EDGE_RISE (R55). -/
def asmBitPeriod (s : Bool) (t : Nat) : List Instr := [asmFall, .edgeRise s (BitVec.ofNat 64 t)]

/-- `BYTE v, @t0, dt`: the bit periods of `v[n-1]` down to `v[0]`, the first at `t` (R55). -/
def asmBytePeriods (v : Byte) (dt : Nat) : Nat → Nat → List Instr
  | 0, _ => []
  | n + 1, t => asmBitPeriod (v.getLsbD n) t ++ asmBytePeriods v dt n (t + dt)

/-- The instructions a source line stands for (R54, R55). -/
def AsmLine.expand : AsmLine → List Instr
  | .edgeRise s t => [.edgeRise (asmBit s) (BitVec.ofNat 64 t)]
  | .edgeFall => [asmFall]
  | .edge lvl s t =>
    if asmBit lvl then [.edgeRise (asmBit s) (BitVec.ofNat 64 t)] else [.edgeFall (asmBit s) (BitVec.ofNat 64 t)]
  | .submit v => [.submit (BitVec.ofNat 8 v)]
  | .setIdleByte v => [.setIdleByte (BitVec.ofNat 8 v)]
  | .setTimeout t => [.setTimeout (BitVec.ofNat 32 t)]
  | .setClockRole r => [.setClockRole (BitVec.ofNat 8 r)]
  | .setSpeed p => [.setSpeed (BitVec.ofNat 8 p)]
  | .alloc r c ok irq => [.alloc (BitVec.ofNat 8 r) c (asmBit (ok.getD 1)) (asmBit (irq.getD 1))]
  | .free => [.free]
  | .cbRet => [.cbRet]
  | .bit s t => asmBitPeriod (asmBit s) t
  | .byte v t0 dt => asmBytePeriods (BitVec.ofNat 8 v) dt 8 t0
  | .cbSend v => [.submit (BitVec.ofNat 8 v), .cbRet]

/-- The commands a source line assembles to; a line with an operand out of range is refused (R54). -/
def assemble (l : AsmLine) : Option (List Command) :=
  if l.wf then some (l.expand.map encode) else none

end Sys2Proof
end

