-- ==== Sys2Proof/Machine/State.lean ====
section
/-! DEFINITION. The state of one instance of the block (10_state.md), its power-on value, and the reasons a step could
stop. -/

namespace Sys2Proof.Machine

/-- `phase` (R10): a 2-bit enumerated register. -/
inductive Phase where
  /-- 0: no handle exists. -/
  | unalloc
  /-- 1: a handle exists and no completion callback is running. -/
  | ready
  /-- 2: a completion callback is running on the edge-handling path. -/
  | callback
deriving DecidableEq, Repr

/-- The 2-bit value of the phase (R10); 3 never occurs. -/
def Phase.code : Phase → BitVec 2
  | .unalloc => 0#2
  | .ready => 1#2
  | .callback => 2#2

/-- The fault codes of the `fault` register (R11, 60_exceptions rule R83). -/
inductive FaultCode where
  /-- 0: no fault. -/
  | none
  /-- 1: reserved opcode, `rsv` ≠ 0, or a must-be-zero payload bit set. -/
  | illegalCommand
  /-- 2: a host command other than ALLOC while UNALLOC. -/
  | notAllocated
  /-- 3: ALLOC while READY. -/
  | alreadyAllocated
  /-- 4: `side.alloc_ok` = 0. -/
  | allocFailed
  /-- 5: ALLOC or FREE while CALLBACK. -/
  | lifecycleInCallback
  /-- 6: CB_RET while READY. -/
  | returnOutsideCallback
deriving DecidableEq, Repr

/-- The 3-bit value of the fault register (R83); 7 is never used. -/
def FaultCode.code : FaultCode → BitVec 3
  | .none => 0#3
  | .illegalCommand => 1#3
  | .notAllocated => 2#3
  | .alreadyAllocated => 3#3
  | .allocFailed => 4#3
  | .lifecycleInCallback => 5#3
  | .returnOutsideCallback => 6#3

/-- An output event (R26). -/
inductive Event where
  /-- `Drive(b)`: serial-out driven to level `b`. -/
  | drive (b : Bool)
  /-- `Callback(v, ctx)`: completion callback invoked with the byte and the context. -/
  | callback (v : Byte) (ctx : Ctx)
deriving DecidableEq, Repr

/-- The reasons a step could end in `Outcome.fault`: there are none. `raise Fault(code)` is an effect the spec describes
(R84): it writes the fault register and the machine goes on to a next state that accepts nothing. Safe: nothing is cut
short. DEDUCED: notes/assumptions/10.md. -/
inductive Fault
deriving DecidableEq, Repr

/-- The reasons a step could be refused. -/
inductive Refusal where
  /-- Raised by an arm of `exec` whose instruction has no meaning yet. No arm raises it: every row of the opcode table has
  its meaning. Safe. -/
  | notModelled (mnemonic : String)
deriving DecidableEq, Repr

/-- The block's registers (R10 to R24), its output history (R26), the commands issued and not yet accepted (R88), the
parameters (R7), and the model's counter of free values. -/
structure State where
  /-- R10. -/
  phase : Phase
  /-- R11. -/
  fault : FaultCode
  /-- R12. -/
  irqOk : Bool
  /-- R13. -/
  inAccum : Byte
  /-- R14. -/
  bitCount : BitCount
  /-- R15. -/
  outActive : Byte
  /-- R16. -/
  outPending : Byte
  /-- R17, the block's one status flag. -/
  outPendingValid : Bool
  /-- R18. -/
  idleByte : Byte
  /-- R19. -/
  lastEdgeTime : Time
  /-- R20. -/
  timeoutUs : Micros
  /-- R21. -/
  clockRole : Tag
  /-- R22. -/
  speed : Tag
  /-- R23. -/
  cbCtx : Ctx
  /-- R24. -/
  soutQ : Bool
  /-- R26: append-only, oldest event first. -/
  history : List Event
  /-- R7: the parameters; no command writes them. notes/assumptions/6.md. -/
  params : Params
  /-- The commands the agents have issued and the block has not accepted, in the order it is to take them; an edge that is
  pending or held stands here (R39, R58, R88). notes/assumptions/1.md. -/
  port : List Command
  /-- The model's own: how many times FREE has drawn free values (R29). notes/assumptions/9.md. -/
  freeDraws : Nat
deriving DecidableEq, Repr

/-- Power-on (R28, R96): `phase` = UNALLOC, `fault` = 0, `irq_ok` = 0 and `sout_q` = 1; the history is empty, the
parameters are at their defaults (R7). The spec gives every other register no value at power-on; here they are 0, and the context is
`Ctx.initial`. DESIGN CHOICE: notes/assumptions/7.md, and 3.md for the empty port, 9.md for the counter. -/
def State.reset : State :=
  { phase := .unalloc, fault := .none, irqOk := false, inAccum := 0#8, bitCount := 0#4, outActive := 0#8,
    outPending := 0#8, outPendingValid := false, idleByte := 0#8, lastEdgeTime := 0#64, timeoutUs := 0#32,
    clockRole := 0#8, speed := 0#8, cbCtx := .initial, soutQ := true, history := [], params := Params.default, port := [],
    freeDraws := 0 }

/-- The outcome of a step of this machine. -/
abbrev Result := Host.Outcome State Fault Refusal

end Sys2Proof.Machine
end

