-- ==== Sys2Proof/Machine/Flags.lean ====
section
/-! DEFINITION. The block's one status flag, `out_pending_valid` (10_state rule R17), with the slot it guards
(42_transfer_queue rules R67, R68; 41_shift_engine rule R63). The block has no condition codes. -/

namespace Sys2Proof.Machine

/-- The slot takes a value and the flag is set: SUBMIT at `bit_count` ≠ 0 (R67). The last writer wins (R68). -/
def State.queueByte (s : State) (v : Byte) : State := { s with outPending := v, outPendingValid := true }

/-- `out_active` takes a value at once and the flag is cleared: SUBMIT at `bit_count` = 0 (R67). -/
def State.loadByte (s : State) (v : Byte) : State := { s with outActive := v, outPendingValid := false }

/-- Promotion, the outbound multiplexer (R63): the pending byte if the flag is set, and the flag is cleared; otherwise the
idle byte. `out_pending` keeps its value (R16). -/
def State.promote (s : State) : State :=
  if s.outPendingValid then { s with outActive := s.outPending, outPendingValid := false }
  else { s with outActive := s.idleByte }

end Sys2Proof.Machine
end

