-- ==== Sys2Proof/Machine/Operands.lean ====
section
/-! DEFINITION. The values the datapath computes: the two shifts, the elapsed time and the staleness test
(41_shift_engine rules R60, R61, R65). -/

namespace Sys2Proof.Machine

/-- `zext_8(sample)`: "sampled level `1` maps to logical bit `1`" (R35, R61). -/
def sampleByte (b : Bool) : Byte := if b then 1#8 else 0#8

/-- `((in_accum << 1) | zext_8(sample_sin))[7:0]` (R61): the sample enters bit 0, bit 7 is lost. -/
def shiftedIn (acc : Byte) (b : Bool) : Byte := (acc <<< 1) ||| sampleByte b

/-- The bit EDGE_FALL drives, `out_active[7]` (R65). -/
def topBit (v : Byte) : Bool := v.getLsbD 7

/-- `{out_active[6:0], OUT_FILL}` (R65). -/
def shiftedOut (v : Byte) (fill : Bool) : Byte := (v <<< 1) ||| sampleByte fill

/-- `elapsed = (now - last_edge_time)[63:0]`, modulo 2^64 (R60). -/
def elapsed (now last : Time) : Time := now - last

/-- `elapsed > zext_64(timeout_us)`, unsigned and strict (R60, R59 corner case 1). -/
def stale (now last : Time) (timeout : Micros) : Bool := (timeout.setWidth 64).ult (elapsed now last)

end Sys2Proof.Machine
end

