-- ==== Sys2Proof/Machine/Ops.lean ====
section
/-! DEFINITION. The named operations the meanings share: raising a fault, the gates of the acceptance table, entering and
leaving the completion callback, the parts of the edge handler, and taking the next command from the port. -/

namespace Sys2Proof.Machine

/-! ### Faults (60_exceptions R84) -/

/-- `fault <- code`, and no other write. -/
def State.withFault (s : State) (c : FaultCode) : State := { s with fault := c }

/-- `raise Fault(code)` (R84): applied to the state before the command, so that every other write of the command is
discarded; no event. The spec has no handler, vector or saved state. -/
def raise (s : State) (c : FaultCode) : Result := .next (s.withFault c)

/-- A block whose fault register is not 0 accepts no command of any agent (R84). -/
def whenClear (s : State) (k : Result) : Result := if s.fault = .none then k else .next s

/-! ### The gates of the acceptance table (R86) -/

/-- The start of both edge semantics: ignored with no handle or no registered handler (R57), held in CALLBACK (R58). Either
way the state does not change. -/
def onEdge (s : State) (k : Result) : Result :=
  whenClear s <|
    if s.phase = .unalloc ∨ s.irqOk = false then .next s
    else if s.phase = .callback then .next s
    else k

/-- The start of SUBMIT and of every setter: NOT_ALLOCATED in UNALLOC, otherwise executed (R71, R86). -/
def onHandle (s : State) (k : Result) : Result :=
  whenClear s <| if s.phase = .unalloc then raise s .notAllocated else k

/-! ### The completion callback (43_callback R70, R72) -/

/-- `emit e` (R26): the history is append-only. -/
def State.emit (s : State) (e : Event) : State := { s with history := s.history ++ [e] }

/-- Entering the callback: `phase <- CALLBACK`, `emit Callback(in_accum, cb_ctx)` (R64, R70). -/
def State.enterCallback (s : State) : State :=
  { s with phase := .callback }.emit (.callback s.inAccum s.cbCtx)

/-- The return from it: `phase <- READY` and no datapath field (R72). -/
def State.leaveCallback (s : State) : State := { s with phase := .ready }

/-! ### The edge handler (41_shift_engine) -/

/-- The timeout check, then `last_edge_time <- now` whether or not it fired (R60). -/
def State.resync (s : State) (now : Time) : State :=
  if stale now s.lastEdgeTime s.timeoutUs then { s with inAccum := 0#8, bitCount := 0#4, lastEdgeTime := now }
  else { s with lastEdgeTime := now }

/-- The inbound shift and the count (R61). -/
def State.shiftIn (s : State) (b : Bool) : State :=
  { s with inAccum := shiftedIn s.inAccum b, bitCount := s.bitCount + 1#4 }

/-- `bit_count <- 0`: at a byte boundary (R62) and by SET_CLOCK_ROLE (R75). -/
def State.clearCount (s : State) : State := { s with bitCount := 0#4 }

/-- The byte boundary, tested after the increment (R62): count back to 0, promotion (R63), completion (R64). -/
def State.boundary (s : State) : State :=
  if s.bitCount = 8#4 then s.clearCount.promote.enterCallback else s

/-- EDGE_FALL's drive and shift (R65). -/
def State.driveBit (s : State) : State :=
  { s with soutQ := topBit s.outActive, outActive := shiftedOut s.outActive s.params.outFill }.emit
    (.drive (topBit s.outActive))

/-! ### Handle lifetime (45_lifecycle) -/

/-- `TIMEOUT_RESET`, 200 µs (R7, R28). -/
def timeoutReset : Micros := 200#32

/-- Every write of a successful ALLOC (R79, R28). `fault`, `sout_q` and the history keep their values. -/
def State.allocate (s : State) (role : Tag) (ctx : Ctx) (irq : Bool) : State :=
  { s with
    phase := .ready, irqOk := irq, inAccum := 0#8, bitCount := 0#4, outActive := s.params.outActiveReset,
    outPending := 0#8, outPendingValid := false, idleByte := s.params.idleByteReset, lastEdgeTime := 0#64,
    timeoutUs := timeoutReset, clockRole := role, speed := s.params.speedReset, cbCtx := ctx }

/-- Every write of FREE (R80). The fields that then hold no value (R29) take free values, and the counter moves on.
notes/assumptions/8.md. -/
def State.release (s : State) : State :=
  { s with
    phase := .unalloc, irqOk := false, soutQ := true,
    inAccum := Config.freeInAccum s.freeDraws,
    bitCount := BitVec.ofNat 4 (Config.freeBitCount s.freeDraws).val,
    outActive := Config.freeOutActive s.freeDraws,
    outPending := Config.freeOutPending s.freeDraws,
    outPendingValid := Config.freeOutPendingValid s.freeDraws,
    idleByte := Config.freeIdleByte s.freeDraws,
    lastEdgeTime := Config.freeLastEdgeTime s.freeDraws,
    timeoutUs := Config.freeTimeoutUs s.freeDraws,
    clockRole := Config.freeClockRole s.freeDraws,
    speed := Config.freeSpeed s.freeDraws,
    cbCtx := Config.freeCbCtx s.freeDraws,
    freeDraws := s.freeDraws + 1 }

/-! ### The command port -/

/-- The instruction is an EDGE command. -/
def isEdge : Instr → Bool
  | .edgeRise _ _ => true
  | .edgeFall _ _ => true
  | .submit _ => false
  | .setIdleByte _ => false
  | .setTimeout _ => false
  | .setClockRole _ => false
  | .setSpeed _ => false
  | .alloc _ _ _ _ => false
  | .free => false
  | .cbRet => false

/-- The command is a legal EDGE. -/
def isEdgeCommand (c : Command) : Bool :=
  match decode c with
  | .ok i => isEdge i
  | .error _ => false

/-- EDGE commands are held: a callback runs and the handler is registered (R57, R58). notes/assumptions/13.md. -/
def State.holdsEdges (s : State) : Bool := decide (s.phase = .callback) && s.irqOk

/-- The next command the block accepts and the commands that stay: the first, or, while EDGEs are held, the first that is
no EDGE, the held ones keeping their order (R39, R58, R71). -/
def takeCommand (hold : Bool) : List Command → Option (Command × List Command)
  | [] => none
  | c :: cs =>
    if hold && isEdgeCommand c then
      match takeCommand hold cs with
      | some (d, rest) => some (d, c :: rest)
      | none => none
    else some (c, cs)

/-- The commands left waiting. -/
def State.withPort (s : State) (p : List Command) : State := { s with port := p }

/-- A command placed where the block takes its next one, with the default side inputs. notes/assumptions/3.md. -/
def State.issueWord (s : State) (w : CmdWord) : State :=
  s.withPort ({ word := w, side := defaultSide } :: s.port)

end Sys2Proof.Machine
end

