-- ==== Sys2Proof/Machine/Callback.lean ====
section
/-! DEFINITION. The return from the completion callback: CB_RET (43_callback.md). -/

namespace Sys2Proof.Machine

/-- CB_RET (R72): NOT_ALLOCATED, then RETURN_OUTSIDE_CALLBACK (R85), then the return. -/
def execCbRet (s : State) : Result :=
  whenClear s <|
    match s.phase with
    | .unalloc => raise s .notAllocated
    | .ready => raise s .returnOutsideCallback
    | .callback => .next s.leaveCallback

end Sys2Proof.Machine
end

