-- ==== Sys2Proof/Machine/Configuration.lean ====
section
/-! DEFINITION. The configuration setters: SET_TIMEOUT, SET_CLOCK_ROLE and SET_SPEED (44_configuration.md). -/

namespace Sys2Proof.Machine

/-- SET_TIMEOUT (R77): used from the next EDGE_RISE on; `last_edge_time` is not touched. -/
def execSetTimeout (imm32 : Micros) (s : State) : Result :=
  onHandle s (.next { s with timeoutUs := imm32 })

/-- SET_CLOCK_ROLE (R75): the tag, and the partial inbound byte is discarded; `in_accum` and the outbound side stay. -/
def execSetClockRole (imm8 : Tag) (s : State) : Result :=
  onHandle s (.next { s.clearCount with clockRole := imm8 })

/-- SET_SPEED (R76). -/
def execSetSpeed (imm8 : Tag) (s : State) : Result :=
  onHandle s (.next { s with speed := imm8 })

end Sys2Proof.Machine
end

