-- ==== Sys2Proof/Machine/Lifecycle.lean ====
section
/-! DEFINITION. The handle's lifetime: ALLOC and FREE (45_lifecycle.md). -/

namespace Sys2Proof.Machine

/-- ALLOC (R79): LIFECYCLE_IN_CALLBACK, then ALREADY_ALLOCATED, then ALLOC_FAILED (R81, R85), then the functional reset.
A failed registration leaves a degraded handle (R82). -/
def execAlloc (imm8 : Tag) (ctx : Ctx) (allocOk irqOk : Bool) (s : State) : Result :=
  whenClear s <|
    match s.phase with
    | .callback => raise s .lifecycleInCallback
    | .ready => raise s .alreadyAllocated
    | .unalloc => if allocOk then .next (s.allocate imm8 ctx irqOk) else raise s .allocFailed

/-- FREE (R80): NOT_ALLOCATED, then LIFECYCLE_IN_CALLBACK (R85), then the release. It emits no event. -/
def execFree (s : State) : Result :=
  whenClear s <|
    match s.phase with
    | .unalloc => raise s .notAllocated
    | .callback => raise s .lifecycleInCallback
    | .ready => .next s.release

end Sys2Proof.Machine
end

