-- ==== Sys2Proof/Machine/OutboundQueue.lean ====
section
/-! DEFINITION. The outbound-byte queue: SUBMIT and SET_IDLE_BYTE (42_transfer_queue.md). -/

namespace Sys2Proof.Machine

/-- SUBMIT (R67): one atomic check of `bit_count` and write (R37). The test is of `bit_count` only (conflict C3). -/
def execSubmit (imm8 : Byte) (s : State) : Result :=
  onHandle s (.next (if s.bitCount = 0#4 then s.loadByte imm8 else s.queueByte imm8))

/-- SET_IDLE_BYTE (R69): `out_active` is not touched. -/
def execSetIdleByte (imm8 : Byte) (s : State) : Result :=
  onHandle s (.next { s with idleByte := imm8 })

end Sys2Proof.Machine
end

