-- ==== Sys2Proof/Machine/ShiftEngine.lean ====
section
/-! DEFINITION. The shift engine and timeout monitor: EDGE_RISE and EDGE_FALL (41_shift_engine.md). -/

namespace Sys2Proof.Machine

/-- EDGE_RISE (R59): timeout check (R60), inbound shift (R61), byte boundary with promotion and completion (R62 to R64). -/
def execEdgeRise (sampleSin : Bool) (now : Time) (s : State) : Result :=
  onEdge s (.next ((s.resync now).shiftIn sampleSin).boundary)

/-- EDGE_FALL (R65): one outbound bit. Payload bit 1 and `side.now` are ignored (R47, R53). -/
def execEdgeFall (_sampleSin : Bool) (_now : Time) (s : State) : Result :=
  onEdge s (.next s.driveBit)

end Sys2Proof.Machine
end

