-- ==== Sys2Proof/Machine/Dispatch.lean ====
section
/-! DEFINITION. One arm per constructor of Instr, in the order of spec/opcode_table.json. -/

namespace Sys2Proof.Machine

/-- What a legal command does to the block (60_exceptions rule R86). -/
def exec (i : Instr) (s : State) : Host.Outcome State Fault Refusal :=
  match i with
  | .edgeRise sample now => Sys2Proof.Machine.execEdgeRise sample now s
  | .edgeFall sample now => Sys2Proof.Machine.execEdgeFall sample now s
  | .submit imm8 => Sys2Proof.Machine.execSubmit imm8 s
  | .setIdleByte imm8 => Sys2Proof.Machine.execSetIdleByte imm8 s
  | .setTimeout imm32 => Sys2Proof.Machine.execSetTimeout imm32 s
  | .setClockRole imm8 => Sys2Proof.Machine.execSetClockRole imm8 s
  | .setSpeed imm8 => Sys2Proof.Machine.execSetSpeed imm8 s
  | .alloc imm8 ctx allocOk irqOk => Sys2Proof.Machine.execAlloc imm8 ctx allocOk irqOk s
  | .free => Sys2Proof.Machine.execFree s
  | .cbRet => Sys2Proof.Machine.execCbRet s

end Sys2Proof.Machine
end

