-- ==== Sys2Proof/Machine/Step.lean ====
section
/-! DEFINITION. One step: the block accepts the next command it can (20_memory rules R37, R39). -/

namespace Sys2Proof.Machine

/-- One step. A faulted block accepts nothing (R84). With no command it can accept, the block keeps its state (R71, R95).
Otherwise the command leaves the port and runs; an illegal word raises ILLEGAL_COMMAND, whatever the phase (R51, R85). -/
def step (s : State) : Host.Outcome State Fault Refusal :=
  whenClear s <|
    match takeCommand s.holdsEdges s.port with
    | none => .next s
    | some (c, rest) =>
      match decode c with
      | .ok i => exec i (s.withPort rest)
      | .error _ => raise (s.withPort rest) .illegalCommand

/-- `s` with the word `w` of the opcode table as the next command, at the default side inputs. The command port takes whole
64-bit words only, so a word of another width is not issued (R34). notes/assumptions/3.md, 20.md. -/
def State.withFetchWord (s : State) (nbits w : Nat) : State :=
  match tableWord nbits w with
  | some cw => s.issueWord cw
  | none => s

end Sys2Proof.Machine
end

