-- ==== Sys2Proof/Safety.lean ====
section
/-! DEFINITION. The terms claims use: a good state, the invariant of 10_state section 7, the acceptance table as the spec
prints it, which words are legal, which commands are held, runs of commands, what a run samples, when no observer can tell
two states apart, and the renaming of contexts. -/

namespace Sys2Proof.Machine

/-! ### Good states -/

/-- "Every claim about the block takes `fault` = 0 at the end as a premise" (R84). -/
abbrev State.Good (s : State) : Prop := s.fault = .none

/-- What every step keeps: `bit_count` is in 0..7 (R14, R30); throughout the CALLBACK phase it is 0 (R30), the handler is
registered (R57) and no byte is pending (R63, R67 corner case 1); and in UNALLOC `irq_ok` is 0 (R12) and `sout_q` is 1
(R24). -/
abbrev State.Inv (s : State) : Prop :=
  s.bitCount.toNat ≤ 7 ∧
  (s.phase = .callback → s.bitCount = 0#4 ∧ s.irqOk = true ∧ s.outPendingValid = false) ∧
  (s.phase = .unalloc → s.irqOk = false ∧ s.soutQ = true)

/-! ### The acceptance table (R86) -/

/-- An entry of the table. -/
inductive Verdict where
  | execute
  | ignore
  | hold
  | fault (c : FaultCode)
deriving DecidableEq, Repr

/-- The row for the two EDGE commands. -/
def edgeVerdict (s : State) : Verdict :=
  match s.phase with
  | .unalloc => .ignore
  | .ready => if s.irqOk then .execute else .ignore
  | .callback => .hold

/-- The row for SUBMIT and the SET_* commands. -/
def handleVerdict (s : State) : Verdict :=
  match s.phase with
  | .unalloc => .fault .notAllocated
  | .ready => .execute
  | .callback => .execute

/-- The table of rule R86, for a legal word and `fault` = 0. -/
def verdict (i : Instr) (s : State) : Verdict :=
  match i with
  | .edgeRise _ _ => edgeVerdict s
  | .edgeFall _ _ => edgeVerdict s
  | .submit _ => handleVerdict s
  | .setIdleByte _ => handleVerdict s
  | .setTimeout _ => handleVerdict s
  | .setClockRole _ => handleVerdict s
  | .setSpeed _ => handleVerdict s
  | .alloc _ _ ok _ =>
    match s.phase with
    | .unalloc => if ok then .execute else .fault .allocFailed
    | .ready => .fault .alreadyAllocated
    | .callback => .fault .lifecycleInCallback
  | .free =>
    match s.phase with
    | .unalloc => .fault .notAllocated
    | .ready => .execute
    | .callback => .fault .lifecycleInCallback
  | .cbRet =>
    match s.phase with
    | .unalloc => .fault .notAllocated
    | .ready => .fault .returnOutsideCallback
    | .callback => .execute

/-! ### Legal words and held commands -/

/-- The legal words of rule R51, with the must-be-zero bits of R45 and R47 to R50 written out by their places in the word. -/
abbrev LegalBits (w : CmdWord) : Prop :=
  w.extractLsb' 32 24 = 0#24 ∧
    ((w.extractLsb' 56 8 = 0x01#8 ∧ w.extractLsb' 2 30 = 0#30) ∨
     (w.extractLsb' 56 8 ∈ [0x10#8, 0x11#8, 0x13#8, 0x14#8, 0x20#8] ∧ w.extractLsb' 8 24 = 0#24) ∨
     w.extractLsb' 56 8 = 0x12#8 ∨
     (w.extractLsb' 56 8 ∈ [0x21#8, 0x30#8] ∧ w.extractLsb' 0 32 = 0#32))

/-- The commands `held` may stand in the port before the one the block takes: there are none, or a callback of a registered
handler runs and each is a legal EDGE (R58, R71). notes/assumptions/2.md, 13.md. -/
abbrev State.HoldsBefore (s : State) (held : List Command) : Prop :=
  held = [] ∨ (s.phase = .callback ∧ s.irqOk = true ∧
    ∀ e ∈ held, ∃ b n, decode e = .ok (.edgeRise b n) ∨ decode e = .ok (.edgeFall b n))

/-! ### Agents (R6) -/

/-- The agents that issue commands (R6). -/
inductive Agent where
  | wire
  | application
  | callback
deriving DecidableEq, Repr

/-- Who issued a command the block accepts (R6, R91): EDGE commands come from the wire environment; any other command from
the callback agent in CALLBACK and from the application agent outside it. notes/assumptions/17.md. -/
def issuer (i : Instr) (ph : Phase) : Agent :=
  if isEdge i then .wire else if ph = .callback then .callback else .application

/-! ### Runs of commands -/

/-- Commands applied one after another (R39). -/
def execAll : List Instr → State → Result
  | [], s => .next s
  | i :: is, s =>
    match exec i s with
    | .next t => execAll is t
    | .fault r => .fault r
    | .refused r => .refused r

/-- An EDGE command is executed, not ignored, held or shut out by a fault (R57, R58, R84). -/
abbrev State.AcceptsEdges (s : State) : Prop := s.fault = .none ∧ s.phase = .ready ∧ s.irqOk = true

/-- The serial-in sample an instruction shifts in, if it is an EDGE_RISE that is executed. -/
def sampled (i : Instr) (s : State) : List Bool :=
  match i with
  | .edgeRise b _ => if s.AcceptsEdges then [b] else []
  | .edgeFall _ _ => []
  | .submit _ => []
  | .setIdleByte _ => []
  | .setTimeout _ => []
  | .setClockRole _ => []
  | .setSpeed _ => []
  | .alloc _ _ _ _ => []
  | .free => []
  | .cbRet => []

/-- The samples a run shifts in, the newest first. -/
def samplesOf : List Instr → State → List Bool
  | [], _ => []
  | i :: is, s =>
    match exec i s with
    | .next t => samplesOf is t ++ sampled i s
    | .fault _ => sampled i s
    | .refused _ => sampled i s

/-- The byte whose bit k is the k-th of the newest samples: the newest in bit 0, the oldest in bit 7 (R31, R35). -/
def byteOfSamples (bs : List Bool) : Byte := BitVec.ofFnLE (fun k : Fin 8 => bs.getD k.val false)

/-- The completion notifications of a history (R26). -/
def callbacksOf (h : List Event) : List Event :=
  h.filter (fun e => match e with | .callback _ _ => true | .drive _ => false)

/-- The k-th bit (from 0) that k+1 falling edges drive from `out_active` = `v` with no reload: `v` MSB first, then
`OUT_FILL` (R65, R100). -/
def drivenBit (v : Byte) (fill : Bool) (k : Nat) : Bool := if k < 8 then v.getLsbD (7 - k) else fill

/-! ### What cannot be observed -/

/-- Two states no sequence of commands can tell apart by the output history and the fault register (R26). The registers
that need not agree are those the spec says cannot be observed: in UNALLOC every field without a value (R29); the bits of
`in_accum` above the `bit_count` lowest (R31, conflict C4); `last_edge_time` while `bit_count` is 0 (R31); `out_pending`
while its flag is 0 (R28); and the two tags (R78). -/
structure State.Alike (s t : State) : Prop where
  phase : s.phase = t.phase
  fault : s.fault = t.fault
  irqOk : s.irqOk = t.irqOk
  soutQ : s.soutQ = t.soutQ
  history : s.history = t.history
  params : s.params = t.params
  port : s.port = t.port
  freeDraws : s.freeDraws = t.freeDraws
  bitCount : s.phase ≠ .unalloc → s.bitCount = t.bitCount
  outActive : s.phase ≠ .unalloc → s.outActive = t.outActive
  outPendingValid : s.phase ≠ .unalloc → s.outPendingValid = t.outPendingValid
  outPending : s.phase ≠ .unalloc → s.outPendingValid = true → s.outPending = t.outPending
  idleByte : s.phase ≠ .unalloc → s.idleByte = t.idleByte
  timeoutUs : s.phase ≠ .unalloc → s.timeoutUs = t.timeoutUs
  cbCtx : s.phase ≠ .unalloc → s.cbCtx = t.cbCtx
  inAccum : s.phase ≠ .unalloc → ∀ k < s.bitCount.toNat, s.inAccum.getLsbD k = t.inAccum.getLsbD k
  lastEdgeTime : s.phase ≠ .unalloc → s.bitCount ≠ 0#4 → s.lastEdgeTime = t.lastEdgeTime

/-! ### Renaming contexts (R23, D27: the block only stores a context and returns it) -/

/-- The event with its context renamed. -/
def Event.mapCtx (f : Ctx → Ctx) : Event → Event
  | .drive b => .drive b
  | .callback v x => .callback v (f x)

/-- The command with its context renamed. -/
def mapCommandCtx (f : Ctx → Ctx) (c : Command) : Command := { c with side := { c.side with ctx := f c.side.ctx } }

/-- The instruction with its context renamed; ALLOC alone carries one (R53). -/
def mapInstrCtx (f : Ctx → Ctx) : Instr → Instr
  | .edgeRise b n => .edgeRise b n
  | .edgeFall b n => .edgeFall b n
  | .submit v => .submit v
  | .setIdleByte v => .setIdleByte v
  | .setTimeout v => .setTimeout v
  | .setClockRole r => .setClockRole r
  | .setSpeed p => .setSpeed p
  | .alloc r x a q => .alloc r (f x) a q
  | .free => .free
  | .cbRet => .cbRet

/-- The state with every context renamed: in `cb_ctx`, in the history and in the waiting commands. -/
def State.mapCtx (f : Ctx → Ctx) (s : State) : State :=
  { s with cbCtx := f s.cbCtx, history := s.history.map (Event.mapCtx f), port := s.port.map (mapCommandCtx f) }

/-- `t` is `s` with its contexts renamed by `f`. In UNALLOC `cb_ctx` holds no value (R29), and nothing is asked of it. -/
abbrev State.RenamedBy (f : Ctx → Ctx) (s t : State) : Prop :=
  t = { s.mapCtx f with cbCtx := t.cbCtx } ∧ (s.phase ≠ .unalloc → t.cbCtx = f s.cbCtx)

end Sys2Proof.Machine
end

