-- ==== Sys2Proof/Certificates/Slice0/Obligations.lean ====
section
/-! DEFINITION. The statements for the provers. Each says which rule of spec/ it formalises. -/

open Sys2Proof Sys2Proof.Machine

/-! ### Encoding -/

/-- Decoding the encoding of an instruction gives it back, with every operand and side input at every value
(R44, R46 to R50, R53). -/
def Obligations.DecodeOfEncode : Prop := ∀ i : Instr, decode (encode i) = .ok i

/-- A command that decodes carries exactly the word the encoder writes, so no bit of a legal word is dropped
(R45, R51, R52). -/
def Obligations.EncodeOfDecode : Prop := ∀ (c : Command) (i : Instr), decode c = .ok i → encodeWord i = c.word

/-- R51, with the must-be-zero bits of R45 written out (`LegalBits`): an illegal word raises ILLEGAL_COMMAND in every phase,
behind held EDGEs too, and no other register changes; every other word is some instruction, which never raises that code.
That the illegal command leaves the port is the model's choice (notes/assumptions/14.md), and so is the port (1.md, 2.md). -/
def Obligations.IllegalWordsFaultInEveryPhase : Prop :=
  ∀ (s : State) (held rest : List Command) (c : Command), s.fault = .none → s.HoldsBefore held →
    s.port = held ++ c :: rest →
    (¬ LegalBits c.word → step s = .next { s with port := held ++ rest, fault := .illegalCommand }) ∧
    (LegalBits c.word → ∃ i, decode c = .ok i ∧
      ∀ u t, u.fault = .none → exec i u = .next t → t.fault ≠ .illegalCommand)

/-- The payload layouts R47 to R50: where each operand stands in the word, which bits must be zero, and that EDGE_FALL
ignores bit 1. -/
def Obligations.PayloadLayouts : Prop :=
  (∀ (w : CmdWord) (d : Side), w.extractLsb' 32 24 = 0#24 →
    (w.extractLsb' 56 8 = 0x01#8 →
      decode ⟨w, d⟩ = if w.extractLsb' 2 30 ≠ 0#30 then .error .payloadBits
        else if w.getLsbD 0 then .ok (.edgeRise (w.getLsbD 1) d.now) else .ok (.edgeFall (w.getLsbD 1) d.now)) ∧
    (w.extractLsb' 56 8 = 0x12#8 → decode ⟨w, d⟩ = .ok (.setTimeout (w.extractLsb' 0 32))) ∧
    (∀ op mk, (op, mk) ∈ [(0x10#8, Instr.submit), (0x11#8, .setIdleByte), (0x13#8, .setClockRole), (0x14#8, .setSpeed),
        (0x20#8, fun r => .alloc r d.ctx d.allocOk d.irqOk)] → w.extractLsb' 56 8 = op →
      decode ⟨w, d⟩ = if w.extractLsb' 8 24 ≠ 0#24 then .error .payloadBits else .ok (mk (w.extractLsb' 0 8))) ∧
    (∀ op i, (op, i) ∈ [(0x21#8, Instr.free), (0x30#8, .cbRet)] → w.extractLsb' 56 8 = op →
      decode ⟨w, d⟩ = if w.extractLsb' 0 32 ≠ 0#32 then .error .payloadBits else .ok i)) ∧
  (∀ (b b' : Bool) (now : Time) (s : State), exec (.edgeFall b now) s = exec (.edgeFall b' now) s)

/-- Words of 30_encoding R54 and of the vectors decode to the commands they are written for. -/
def Obligations.SpecWordsDecode : Prop :=
  ∀ d : Side,
    decode ⟨0x0100000000000001#64, d⟩ = .ok (.edgeRise false d.now) ∧
    decode ⟨0x0100000000000003#64, d⟩ = .ok (.edgeRise true d.now) ∧
    decode ⟨0x0100000000000000#64, d⟩ = .ok (.edgeFall false d.now) ∧
    decode ⟨0x0100000000000002#64, d⟩ = .ok (.edgeFall true d.now) ∧
    decode ⟨0x1000000000000081#64, d⟩ = .ok (.submit 0x81#8) ∧
    decode ⟨0x1100000000000042#64, d⟩ = .ok (.setIdleByte 0x42#8) ∧
    decode ⟨0x1200000000000064#64, d⟩ = .ok (.setTimeout 100#32) ∧
    decode ⟨0x1300000000000001#64, d⟩ = .ok (.setClockRole 0x01#8) ∧
    decode ⟨0x1400000000000002#64, d⟩ = .ok (.setSpeed 0x02#8) ∧
    decode ⟨0x2000000000000003#64, d⟩ = .ok (.alloc 0x03#8 d.ctx d.allocOk d.irqOk) ∧
    decode ⟨0x2100000000000000#64, d⟩ = .ok .free ∧
    decode ⟨0x3000000000000000#64, d⟩ = .ok .cbRet

/-- A word carried as bytes goes most significant byte first (R36), and a word of any other width than 64 bits is refused:
as bytes, as a word of the opcode table, and at the command port, which it does not enter (R34). -/
def Obligations.TransportIsMostSignificantFirst : Prop :=
  (∀ (d : Side) (bs : List Byte),
    (bs.length ≠ 8 → decodeBytes bs d = .error .wrongWidth) ∧
    (∀ w : CmdWord, bs = toBytes w → decodeBytes bs d = decode ⟨w, d⟩ ∧
      ∀ k < 8, bs[k]? = some (w.extractLsb' (56 - 8 * k) 8))) ∧
  (∀ (s : State) (nbits w : Nat), nbits ≠ 64 → decodeTableWord nbits w = none ∧ s.withFetchWord nbits w = s)

/-- The word and the side inputs of every form of R54, and the refusal of every operand out of range. Nothing is said of a
side input the form does not name (notes/assumptions/4.md), nor of the time of EDGE_FALL, which may be any value. -/
def Obligations.AssemblerWords : Prop :=
  (∀ b < 2, ∀ t < 2 ^ 64, (assemble (.edgeRise b t)).map (·.map (fun c => (c.word, c.side.now))) =
    some [(BitVec.ofNat 64 (0x01 * 2 ^ 56 + 2 * b + 1), BitVec.ofNat 64 t)]) ∧
  (assemble .edgeFall).map (·.map (·.word)) = some [0x0100000000000000#64] ∧
  (∀ l < 2, ∀ b < 2, ∀ t < 2 ^ 64, (assemble (.edge l b t)).map (·.map (fun c => (c.word, c.side.now))) =
    some [(BitVec.ofNat 64 (0x01 * 2 ^ 56 + 2 * b + l), BitVec.ofNat 64 t)]) ∧
  (∀ v < 256,
    (assemble (.submit v)).map (·.map (·.word)) = some [BitVec.ofNat 64 (0x10 * 2 ^ 56 + v)] ∧
    (assemble (.setIdleByte v)).map (·.map (·.word)) = some [BitVec.ofNat 64 (0x11 * 2 ^ 56 + v)] ∧
    (assemble (.setClockRole v)).map (·.map (·.word)) = some [BitVec.ofNat 64 (0x13 * 2 ^ 56 + v)] ∧
    (assemble (.setSpeed v)).map (·.map (·.word)) = some [BitVec.ofNat 64 (0x14 * 2 ^ 56 + v)] ∧
    (∀ x, ∀ ok ∈ [none, some 0, some 1], ∀ irq ∈ [none, some 0, some 1],
      (assemble (.alloc v x ok irq)).map (·.map (fun c => (c.word, c.side.ctx, c.side.allocOk, c.side.irqOk))) =
        some [(BitVec.ofNat 64 (0x20 * 2 ^ 56 + v), x, decide (ok ≠ some 0), decide (irq ≠ some 0))])) ∧
  (∀ t < 2 ^ 32, (assemble (.setTimeout t)).map (·.map (·.word)) = some [BitVec.ofNat 64 (0x12 * 2 ^ 56 + t)]) ∧
  (assemble .free).map (·.map (·.word)) = some [0x2100000000000000#64] ∧
  (assemble .cbRet).map (·.map (·.word)) = some [0x3000000000000000#64] ∧
  (∀ l b t, (2 ≤ b ∨ 2 ^ 64 ≤ t → assemble (.edgeRise b t) = none) ∧
    (2 ≤ l ∨ 2 ≤ b ∨ 2 ^ 64 ≤ t → assemble (.edge l b t) = none)) ∧
  (∀ v, 256 ≤ v → assemble (.submit v) = none ∧ assemble (.setIdleByte v) = none ∧
    assemble (.setClockRole v) = none ∧ assemble (.setSpeed v) = none) ∧
  (∀ t, 2 ^ 32 ≤ t → assemble (.setTimeout t) = none) ∧
  (∀ v x ok irq, 256 ≤ v ∨ (∃ a, 2 ≤ a ∧ (ok = some a ∨ irq = some a)) → assemble (.alloc v x ok irq) = none)

/-- The pseudo-instructions (R55). The time of an assembled EDGE_FALL and the refusal of a BYTE line whose times pass
2^64-1 are the model's choice (notes/assumptions/19.md), and nothing is said of them. -/
def Obligations.PseudoInstructionsExpand : Prop :=
  (∀ b t, ∃ n, (AsmLine.bit b t).expand = [.edgeFall false n, .edgeRise (b == 1) (BitVec.ofNat 64 t)]) ∧
  (∀ v t dt, (AsmLine.byte v t dt).expand =
    (List.range 8).flatMap (fun k => (AsmLine.bit (if v.testBit (7 - k) then 1 else 0) (t + k * dt)).expand)) ∧
  (∀ v, (AsmLine.cbSend v).expand = (AsmLine.submit v).expand ++ AsmLine.cbRet.expand)

/-! ### The step -/

/-- Where the next command in the port decodes and is no held EDGE, one step is that instruction's meaning, after the
command has left the port (R37, R39). The model's: the port (notes/assumptions/1.md); that an ignored or faulting command
leaves it too (14.md); and that in the unreachable state CALLBACK with `irq_ok` = 0 an EDGE is not held (13.md). -/
def Obligations.StepRunsTheDecodedCommand : Prop :=
  ∀ (s : State) (c : Command) (rest : List Command) (i : Instr), s.fault = .none → s.port = c :: rest →
    decode c = .ok i → (isEdge i = true → s.phase = .callback → s.irqOk = false) →
    step s = exec i { s with port := rest }

/-- R58, R71: in CALLBACK the EDGE commands at the front of the port are held, whatever their number, while the first other
command runs, or faults if its word is illegal (R51); they stay in their order (R39); with nothing but EDGEs the block
waits; and after CB_RET (R72) they are the first in the port again. The model's: the port (notes/assumptions/1.md), which
command is taken past the held ones (2.md), and the step in which the block waits (11.md). -/
def Obligations.EdgesAreHeldDuringTheCallback : Prop :=
  ∀ (s : State) (held rest : List Command) (c : Command), s.Inv → s.fault = .none → s.phase = .callback →
    (∀ e ∈ held, ∃ b n, decode e = .ok (.edgeRise b n) ∨ decode e = .ok (.edgeFall b n)) →
    (s.port = held → step s = .next s) ∧
    (∀ i, s.port = held ++ c :: rest → decode c = .ok i → isEdge i = false →
      step s = exec i { s with port := held ++ rest }) ∧
    (∀ e, s.port = held ++ c :: rest → decode c = .error e →
      step s = .next { s with port := held ++ rest, fault := .illegalCommand }) ∧
    (s.port = held ++ c :: rest → decode c = .ok .cbRet → step s = .next { s with phase := .ready, port := held ++ rest })

/-- `step` and `exec` are total: each answers a next state, for every state and instruction, and none stops. A held command,
a raised fault and a faulted block are next states too, as the model has them (notes/assumptions/10.md, 11.md, 12.md; R41
says that a command completes in one step only of a command that is not held). -/
def Obligations.StepAndExecAreTotal : Prop :=
  ∀ s : State, (∃ t, step s = .next t) ∧ ∀ i, ∃ t, exec i s = .next t

/-- With no command waiting the block keeps its state, in every phase: it has no step of its own (R6, R95). That such a step
is a next state is the model's (notes/assumptions/11.md), and so is the port (1.md). -/
def Obligations.IdleBlockKeepsItsState : Prop := ∀ s : State, s.port = [] → step s = .next s

/-! ### Faults -/

/-- R84: a faulted block accepts no command and keeps its fault; a command that raises a fault changes the fault register
and nothing else, and runs only on a block without a fault. -/
def Obligations.FaultsAreStickyAndPrecise : Prop :=
  ∀ s : State,
    (s.fault ≠ .none → step s = .next s ∧ ∀ i, exec i s = .next s) ∧
    (∀ i t, exec i s = .next t → t.fault ≠ s.fault → s.fault = .none ∧ t = { s with fault := t.fault })

/-- The acceptance table of R86, `verdict`. Execute, fault, and no change where it says ignore or hold; then how these two
differ at the step: an ignored command is accepted and leaves the port, a held one stays first in it until a CB_RET is
taken; and the table's last line, an illegal word faults in every phase, behind held EDGEs too. The model's: the port and
the command taken past held ones (notes/assumptions/1.md, 2.md), that the ignored or illegal command leaves the port
(14.md), and the step in which the block waits (11.md). -/
def Obligations.AcceptanceTable : Prop :=
  (∀ (i : Instr) (s : State), s.fault = .none →
    match verdict i s with
    | .execute => ∃ t, exec i s = .next t ∧ t.fault = .none
    | .ignore => exec i s = .next s
    | .hold => exec i s = .next s
    | .fault c => c ≠ .none ∧ exec i s = .next { s with fault := c }) ∧
  (∀ (s : State) (c : Command) (rest : List Command) (i : Instr), s.fault = .none → s.port = c :: rest →
    decode c = .ok i →
    (verdict i s = .ignore → step s = .next { s with port := rest }) ∧
    (verdict i s = .hold → s.Inv → ∃ t waiting, step s = .next t ∧ t.port = c :: waiting ∧
      (t.phase = .callback ∨ (t.phase = .ready ∧ ∃ d ∈ rest, decode d = .ok .cbRet)))) ∧
  (∀ (s : State) (held rest : List Command) (c : Command) (e : DecodeError), s.fault = .none → s.HoldsBefore held →
    s.port = held ++ c :: rest → decode c = .error e →
    step s = .next { s with port := held ++ rest, fault := .illegalCommand })

/-- R85: legality first, then the phase tests in pseudocode order, then ALLOC_FAILED; an EDGE command never faults after
the legality test. That the illegal command leaves the port is the model's choice (notes/assumptions/14.md), and so is the
port (1.md, 2.md). -/
def Obligations.FaultPriority : Prop :=
  ∀ s : State, s.fault = .none →
    (∀ held c rest, s.HoldsBefore held → s.port = held ++ c :: rest → legal c.word = false →
      step s = .next { s with port := held ++ rest, fault := .illegalCommand }) ∧
    (∀ r x q, s.phase = .callback →
      exec (.alloc r x false q) s = .next { s with fault := .lifecycleInCallback } ∧
      exec (.alloc r x true q) s = .next { s with fault := .lifecycleInCallback }) ∧
    (∀ r x q, s.phase = .ready →
      exec (.alloc r x false q) s = .next { s with fault := .alreadyAllocated } ∧
      exec (.alloc r x true q) s = .next { s with fault := .alreadyAllocated }) ∧
    (∀ r x q, s.phase = .unalloc → exec (.alloc r x false q) s = .next { s with fault := .allocFailed }) ∧
    (s.phase = .unalloc → exec .free s = .next { s with fault := .notAllocated } ∧
      exec .cbRet s = .next { s with fault := .notAllocated }) ∧
    (s.phase = .callback → exec .free s = .next { s with fault := .lifecycleInCallback }) ∧
    (s.phase = .ready → exec .cbRet s = .next { s with fault := .returnOutsideCallback }) ∧
    (∀ i t, isEdge i = true → exec i s = .next t → t.fault = .none)

/-- The codes of R83; 7 is never used. -/
def Obligations.FaultCodeValues : Prop :=
  FaultCode.none.code = 0#3 ∧ FaultCode.illegalCommand.code = 1#3 ∧ FaultCode.notAllocated.code = 2#3 ∧
  FaultCode.alreadyAllocated.code = 3#3 ∧ FaultCode.allocFailed.code = 4#3 ∧
  FaultCode.lifecycleInCallback.code = 5#3 ∧ FaultCode.returnOutsideCallback.code = 6#3 ∧
  ∀ c : FaultCode, c.code ≠ 7#3

/-! ### The meaning of each command -/

/-- EDGE_RISE (R59, R61 to R64): its words; its whole next state when it is executed; no change when it is ignored or
held. -/
def Obligations.EdgeRiseShiftsInABit : Prop :=
  (∀ now, encodeWord (.edgeRise false now) = 0x0100000000000001#64 ∧
    encodeWord (.edgeRise true now) = 0x0100000000000003#64) ∧
  ∀ (b : Bool) (now : Time) (s : State), s.fault = .none →
    (s.phase = .unalloc ∨ s.irqOk = false ∨ s.phase = .callback → exec (.edgeRise b now) s = .next s) ∧
    (∀ (count : BitCount) (acc : Byte), s.phase = .ready → s.irqOk = true →
      count = (if s.timeoutUs.toNat < (now - s.lastEdgeTime).toNat then 0#4 else s.bitCount) + 1#4 →
      acc = ((if s.timeoutUs.toNat < (now - s.lastEdgeTime).toNat then 0#8 else s.inAccum) <<< 1) |||
        (if b then 1#8 else 0#8) →
      exec (.edgeRise b now) s = .next
        (if count = 8#4 then
          { s with lastEdgeTime := now, inAccum := acc, bitCount := 0#4,
                   outActive := if s.outPendingValid then s.outPending else s.idleByte,
                   outPendingValid := false, phase := .callback, history := s.history ++ [.callback acc s.cbCtx] }
        else { s with lastEdgeTime := now, inAccum := acc, bitCount := count }))

/-- EDGE_FALL (R65): its words; its whole next state when it is executed; no change when it is ignored or held. The bit
shifted in is the parameter `OUT_FILL`, at any value. -/
def Obligations.EdgeFallDrivesABit : Prop :=
  (∀ now, encodeWord (.edgeFall false now) = 0x0100000000000000#64) ∧
  ∀ (b : Bool) (now : Time) (s : State), s.fault = .none →
    (s.phase = .unalloc ∨ s.irqOk = false ∨ s.phase = .callback → exec (.edgeFall b now) s = .next s) ∧
    (s.phase = .ready → s.irqOk = true →
      exec (.edgeFall b now) s = .next
        { s with soutQ := s.outActive.getLsbD 7,
                 outActive := s.outActive.extractLsb' 0 7 ++ BitVec.ofBool s.params.outFill,
                 history := s.history ++ [.drive (s.outActive.getLsbD 7)] })

/-- SUBMIT (R67): its word; both branches of the `bit_count` = 0 test, in READY and in CALLBACK; the fault in UNALLOC. -/
def Obligations.SubmitWritesActiveOrPending : Prop :=
  ∀ (v : Byte) (s : State), encodeWord (.submit v) = 0x10000000000000#56 ++ v ∧ (s.fault = .none →
    (s.phase = .ready ∨ s.phase = .callback → exec (.submit v) s = .next
      (if s.bitCount = 0#4 then { s with outActive := v, outPendingValid := false }
       else { s with outPending := v, outPendingValid := true })) ∧
    (s.phase = .unalloc → exec (.submit v) s = .next { s with fault := .notAllocated }))

/-- SET_IDLE_BYTE (R69). -/
def Obligations.SetIdleByteWritesTheIdleByte : Prop :=
  ∀ (v : Byte) (s : State), encodeWord (.setIdleByte v) = 0x11000000000000#56 ++ v ∧ (s.fault = .none →
    (s.phase = .ready ∨ s.phase = .callback → exec (.setIdleByte v) s = .next { s with idleByte := v }) ∧
    (s.phase = .unalloc → exec (.setIdleByte v) s = .next { s with fault := .notAllocated }))

/-- SET_TIMEOUT (R77): every 32-bit value, and `last_edge_time` is not touched. -/
def Obligations.SetTimeoutWritesTheThreshold : Prop :=
  ∀ (v : Micros) (s : State), encodeWord (.setTimeout v) = 0x12000000#32 ++ v ∧ (s.fault = .none →
    (s.phase = .ready ∨ s.phase = .callback → exec (.setTimeout v) s = .next { s with timeoutUs := v }) ∧
    (s.phase = .unalloc → exec (.setTimeout v) s = .next { s with fault := .notAllocated }))

/-- SET_CLOCK_ROLE (R75): the tag and `bit_count`, and nothing else. -/
def Obligations.SetClockRoleDiscardsThePartialByte : Prop :=
  ∀ (v : Tag) (s : State), encodeWord (.setClockRole v) = 0x13000000000000#56 ++ v ∧ (s.fault = .none →
    (s.phase = .ready ∨ s.phase = .callback →
      exec (.setClockRole v) s = .next { s with clockRole := v, bitCount := 0#4 }) ∧
    (s.phase = .unalloc → exec (.setClockRole v) s = .next { s with fault := .notAllocated }))

/-- SET_SPEED (R76). -/
def Obligations.SetSpeedWritesTheTag : Prop :=
  ∀ (v : Tag) (s : State), encodeWord (.setSpeed v) = 0x14000000000000#56 ++ v ∧ (s.fault = .none →
    (s.phase = .ready ∨ s.phase = .callback → exec (.setSpeed v) s = .next { s with speed := v }) ∧
    (s.phase = .unalloc → exec (.setSpeed v) s = .next { s with fault := .notAllocated }))

/-- ALLOC (R79, R81): its word, the functional reset at any value of the parameters, and its three faults. -/
def Obligations.AllocResetsTheBlock : Prop :=
  ∀ (r : Tag) (x : Ctx) (ok q : Bool) (s : State),
    encodeWord (.alloc r x ok q) = 0x20000000000000#56 ++ r ∧ (s.fault = .none →
    (s.phase = .unalloc → exec (.alloc r x true q) s = .next
      { s with phase := .ready, irqOk := q, inAccum := 0x00#8, bitCount := 0#4, outActive := s.params.outActiveReset,
               outPending := 0x00#8, outPendingValid := false, idleByte := s.params.idleByteReset,
               lastEdgeTime := 0#64, timeoutUs := 200#32, clockRole := r, speed := s.params.speedReset, cbCtx := x }) ∧
    (s.phase = .unalloc → exec (.alloc r x false q) s = .next { s with fault := .allocFailed }) ∧
    (s.phase = .ready → exec (.alloc r x ok q) s = .next { s with fault := .alreadyAllocated }) ∧
    (s.phase = .callback → exec (.alloc r x ok q) s = .next { s with fault := .lifecycleInCallback }))

/-- FREE (R80): its word; the release, where nothing is said of the registers that then hold no value; no event; its two
faults. -/
def Obligations.FreeReleasesTheHandle : Prop :=
  encodeWord .free = 0x2100000000000000#64 ∧ ∀ s : State, s.fault = .none →
    (s.phase = .ready → ∃ t, exec .free s = .next t ∧ t.phase = .unalloc ∧ t.irqOk = false ∧ t.soutQ = true ∧
      t.fault = .none ∧ t.history = s.history ∧ t.params = s.params ∧ t.port = s.port) ∧
    (s.phase = .unalloc → exec .free s = .next { s with fault := .notAllocated }) ∧
    (s.phase = .callback → exec .free s = .next { s with fault := .lifecycleInCallback })

/-- CB_RET (R72): the phase and nothing else; its two faults. -/
def Obligations.CbRetReturnsFromTheCallback : Prop :=
  encodeWord .cbRet = 0x3000000000000000#64 ∧ ∀ s : State, s.fault = .none →
    (s.phase = .callback → exec .cbRet s = .next { s with phase := .ready }) ∧
    (s.phase = .unalloc → exec .cbRet s = .next { s with fault := .notAllocated }) ∧
    (s.phase = .ready → exec .cbRet s = .next { s with fault := .returnOutsideCallback })

/-- R57: an EDGE command is ignored in UNALLOC and with `irq_ok` = 0. -/
def Obligations.EdgesAreIgnoredWithoutAHandler : Prop :=
  ∀ (i : Instr) (s : State), isEdge i = true → s.phase = .unalloc ∨ s.irqOk = false → exec i s = .next s

/-- R82: a handle whose registration failed is READY, takes every host command that a READY handle takes, and ignores every
EDGE for as long as no FREE ends it. -/
def Obligations.DegradedHandleIgnoresTheWire : Prop :=
  ∀ (r : Tag) (x : Ctx) (s : State), s.fault = .none → s.phase = .unalloc →
    ∃ t, exec (.alloc r x true false) s = .next t ∧ t.phase = .ready ∧ t.irqOk = false ∧
      ∀ (is : List Instr) (u : State), (∀ i ∈ is, i ≠ .free) → execAll is t = .next u →
        u.phase = .ready ∧ u.irqOk = false ∧ u.history = s.history ∧ u.soutQ = s.soutQ ∧
        (∀ i, isEdge i = true → exec i u = .next u) ∧
        (u.fault = .none → ∀ v, (∃ t', exec (.submit v) u = .next t' ∧ t'.fault = .none) ∧
          (∃ t', exec (.setIdleByte v) u = .next t' ∧ t'.fault = .none) ∧
          (∃ t', exec (.setClockRole v) u = .next t' ∧ t'.fault = .none) ∧
          (∃ t', exec (.setSpeed v) u = .next t' ∧ t'.fault = .none) ∧
          (∀ w, ∃ t', exec (.setTimeout w) u = .next t' ∧ t'.fault = .none) ∧
          (∃ t', exec .free u = .next t' ∧ t'.fault = .none))

/-! ### Reset and invariants -/

/-- What power-on leaves, for the fields whose power-on value the spec gives (R10, R11, R12, R24, R96), and the empty output
history. -/
def Obligations.PowerOnState : Prop :=
  State.reset.phase = .unalloc ∧ State.reset.fault = .none ∧ State.reset.irqOk = false ∧ State.reset.soutQ = true ∧
  State.reset.history = [] ∧ State.reset.phase.code = 0#2 ∧
  State.reset.params = ⟨false, 0xFF#8, 0xFF#8, 0x00#8⟩

/-- The invariant holds at power-on. -/
def Obligations.PowerOnMeetsTheInvariant : Prop := State.reset.Inv

/-- Every step keeps the invariant, from every state that has it (R12, R14, R24, R30). -/
def Obligations.EveryStepKeepsTheInvariant : Prop :=
  ∀ s t : State, s.Inv → step s = .next t → t.Inv

/-! ### Whole-machine rules -/

/-- Each register changes only under the commands rules R11 to R24 name as its writers (FREE too, after which the fields
that lose their value hold none, R29), and no command writes the parameters or the port. -/
def Obligations.RegistersHaveOnlyTheirWriters : Prop :=
  ∀ (i : Instr) (s t : State), exec i s = .next t →
    t.params = s.params ∧ t.port = s.port ∧
    (t.irqOk ≠ s.irqOk → i = .free ∨ ∃ r x a q, i = .alloc r x a q) ∧
    (t.inAccum ≠ s.inAccum → i = .free ∨ (∃ b n, i = .edgeRise b n) ∨ ∃ r x a q, i = .alloc r x a q) ∧
    (t.bitCount ≠ s.bitCount → i = .free ∨ (∃ b n, i = .edgeRise b n) ∨ (∃ r, i = .setClockRole r) ∨
      ∃ r x a q, i = .alloc r x a q) ∧
    (t.outActive ≠ s.outActive → i = .free ∨ (∃ b n, i = .edgeFall b n) ∨ (∃ b n, i = .edgeRise b n) ∨
      (∃ v, i = .submit v) ∨ ∃ r x a q, i = .alloc r x a q) ∧
    (t.outPending ≠ s.outPending → i = .free ∨ (∃ v, i = .submit v) ∨ ∃ r x a q, i = .alloc r x a q) ∧
    (t.outPendingValid ≠ s.outPendingValid → i = .free ∨ (∃ v, i = .submit v) ∨ (∃ b n, i = .edgeRise b n) ∨
      ∃ r x a q, i = .alloc r x a q) ∧
    (t.idleByte ≠ s.idleByte → i = .free ∨ (∃ v, i = .setIdleByte v) ∨ ∃ r x a q, i = .alloc r x a q) ∧
    (t.lastEdgeTime ≠ s.lastEdgeTime → i = .free ∨ (∃ b n, i = .edgeRise b n) ∨ ∃ r x a q, i = .alloc r x a q) ∧
    (t.timeoutUs ≠ s.timeoutUs → i = .free ∨ (∃ v, i = .setTimeout v) ∨ ∃ r x a q, i = .alloc r x a q) ∧
    (t.clockRole ≠ s.clockRole → i = .free ∨ (∃ r, i = .setClockRole r) ∨ ∃ r x a q, i = .alloc r x a q) ∧
    (t.speed ≠ s.speed → i = .free ∨ (∃ p, i = .setSpeed p) ∨ ∃ r x a q, i = .alloc r x a q) ∧
    (t.cbCtx ≠ s.cbCtx → i = .free ∨ ∃ r x a q, i = .alloc r x a q) ∧
    (t.soutQ ≠ s.soutQ → i = .free ∨ ∃ b n, i = .edgeFall b n)

/-- The phase changes only by a successful ALLOC, by FREE in READY, by an EDGE_RISE at a byte boundary, and by CB_RET
(R10, R90). -/
def Obligations.PhaseChanges : Prop :=
  ∀ (i : Instr) (s t : State), exec i s = .next t → t.phase ≠ s.phase →
    (s.phase = .unalloc ∧ t.phase = .ready ∧ ∃ r x q, i = .alloc r x true q) ∨
    (s.phase = .ready ∧ t.phase = .unalloc ∧ i = .free) ∨
    (s.phase = .ready ∧ t.phase = .callback ∧ s.bitCount = 7#4 ∧ t.bitCount = 0#4 ∧ ∃ b n, i = .edgeRise b n) ∨
    (s.phase = .callback ∧ t.phase = .ready ∧ i = .cbRet)

/-- R38 and R70: the history is append-only; only EDGE_FALL emits `Drive`, of the bit it leaves on serial-out; only an
EDGE_RISE that opens the CALLBACK phase emits `Callback`, once, of the byte then in `in_accum` with the context. -/
def Obligations.OnlyEdgesEmitEvents : Prop :=
  ∀ (i : Instr) (s t : State), exec i s = .next t →
    (t.history = s.history ∧ (t.phase = .callback → s.phase = .callback)) ∨
    (s.AcceptsEdges ∧ t.phase = .ready ∧ t.soutQ = s.outActive.getLsbD 7 ∧
      t.history = s.history ++ [.drive t.soutQ] ∧ ∃ b n, i = .edgeFall b n) ∨
    (s.AcceptsEdges ∧ t.phase = .callback ∧ t.bitCount = 0#4 ∧
      t.history = s.history ++ [.callback t.inAccum s.cbCtx] ∧ ∃ b n, i = .edgeRise b n)

/-- A command neither reads nor writes the port: what waits behind it does not change what it does (R37, R39). -/
def Obligations.CommandsDoNotSeeThePort : Prop :=
  ∀ (i : Instr) (s t : State) (p : List Command), exec i s = .next t →
    exec i { s with port := p } = .next { t with port := p }

/-- In CALLBACK every command the block accepts is the callback agent's; the wire environment's wait (R6, R40, R91). The
attribution by phase is the model's (notes/assumptions/17.md). -/
def Obligations.CallbackPhaseIsTheCallbackAgents : Prop :=
  ∀ (s : State) (c : Command) (rest : List Command) (i : Instr), s.Inv → s.phase = .callback →
    takeCommand s.holdsEdges s.port = some (c, rest) → decode c = .ok i → issuer i s.phase = .callback

/-- R78: the tags have no effect on any other rule. With other tags a command does the same, tags apart. -/
def Obligations.TagsHaveNoEffect : Prop :=
  ∀ (i : Instr) (s t : State) (r p : Tag), exec i s = .next t →
    ∃ r' p', exec i { s with clockRole := r, speed := p } = .next { t with clockRole := r', speed := p' }

/-- R60, EX-2: a rising edge after a gap longer than `timeout_us` does the same whatever partial byte it finds. -/
def Obligations.StaleGapDiscardsThePartialByte : Prop :=
  ∀ (b : Bool) (now : Time) (s : State) (acc : Byte) (n : BitCount), s.fault = .none → s.phase = .ready →
    s.irqOk = true → s.timeoutUs.toNat < (now - s.lastEdgeTime).toNat →
    exec (.edgeRise b now) { s with inAccum := acc, bitCount := n } =
      .next { s with inAccum := if b then 1#8 else 0#8, bitCount := 1#4, lastEdgeTime := now }

/-- R68, first two rows: of two SUBMITs with nothing between them only the second has an effect, in every state. -/
def Obligations.LastSubmitWins : Prop :=
  ∀ (v w : Byte) (s : State), execAll [.submit v, .submit w] s = execAll [.submit w] s

/-- R99: a SUBMIT in the callback replaces the byte just promoted, a pending one among them, which never reaches the wire:
at the CB_RET the byte to drive is the callback's, and nothing has been driven since the boundary. -/
def Obligations.CallbackSubmitReplacesThePromotedByte : Prop :=
  ∀ (b : Bool) (now : Time) (w : Byte) (s : State), s.AcceptsEdges → s.bitCount = 7#4 →
    (now - s.lastEdgeTime).toNat ≤ s.timeoutUs.toNat →
    (∃ m, exec (.edgeRise b now) s = .next m ∧ m.phase = .callback ∧
      m.outActive = (if s.outPendingValid then s.outPending else s.idleByte)) ∧
    ∃ t v, execAll [.edgeRise b now, .submit w, .cbRet] s = .next t ∧ t.phase = .ready ∧ t.outActive = w ∧
      t.outPendingValid = false ∧ t.history = s.history ++ [.callback v s.cbCtx]

/-! ### Runs -/

/-- R35, R65, R100: any number of falling edges with no reload drive `out_active` MSB first and then `OUT_FILL`, one event
each; only `sout_q`, `out_active` and the history change. -/
def Obligations.FallingEdgesDriveMsbFirst : Prop :=
  ∀ (falls : List (Bool × Time)) (s : State), s.AcceptsEdges →
    ∃ t, execAll (falls.map (fun e => .edgeFall e.1 e.2)) s = .next t ∧
      t = { s with soutQ := t.soutQ, outActive := t.outActive, history := t.history } ∧
      t.history = s.history ++
        (List.range falls.length).map (fun k => .drive (drivenBit s.outActive s.params.outFill k)) ∧
      (∀ k < 8, t.outActive.getLsbD (7 - k) = drivenBit s.outActive s.params.outFill (falls.length + k)) ∧
      (falls ≠ [] → t.soutQ = drivenBit s.outActive s.params.outFill (falls.length - 1))

/-- EX-1 (R59 to R64): from `bit_count` = 0, eight rising edges with no gap after the first above `timeout_us` complete
exactly one byte, MSB first, and leave `bit_count` = 0. -/
def Obligations.EightRisesCompleteOneByte : Prop :=
  ∀ (b : Fin 8 → Bool) (n : Fin 8 → Time) (s : State), s.AcceptsEdges → s.bitCount = 0#4 →
    (∀ k : Fin 7, (n k.succ - n k.castSucc).toNat ≤ s.timeoutUs.toNat) →
    ∃ t v, execAll (List.ofFn (fun k => .edgeRise (b k) (n k))) s = .next t ∧ t.phase = .callback ∧ t.bitCount = 0#4 ∧
      t.history = s.history ++ [.callback v s.cbCtx] ∧ ∀ k : Fin 8, v.getLsbD (7 - k.val) = b k

/-- R31: the byte an EDGE_RISE completes is the serial-in samples of the last eight EDGE_RISE commands executed, that one
included, the newest in bit 0, whatever other commands ran among them. -/
def Obligations.CompletedByteIsTheLastEightSamples : Prop :=
  ∀ (is : List Instr) (b : Bool) (now : Time) (s t u : State), execAll is s = .next t → t.AcceptsEdges →
    exec (.edgeRise b now) t = .next u → u.phase = .callback → 7 ≤ (samplesOf is s).length →
    u.history = t.history ++ [.callback (byteOfSamples (b :: samplesOf is s)) t.cbCtx]

/-- R32: if a byte is pending after a run, the last command that wrote the flag was a SUBMIT executed at `bit_count` ≠ 0,
its value is the pending one, and no byte boundary has happened since. -/
def Obligations.PendingByteComesFromAMidByteSubmit : Prop :=
  ∀ (is : List Instr) (s t : State), s.Inv → s.outPendingValid = false → execAll is s = .next t → t.fault = .none →
    t.phase ≠ .unalloc → t.outPendingValid = true →
    ∃ before v after m, is = before ++ .submit v :: after ∧ execAll before s = .next m ∧ m.phase = .ready ∧
      m.bitCount ≠ 0#4 ∧ t.outPending = v ∧ callbacksOf t.history = callbacksOf m.history ∧
      ∀ i ∈ after, (∀ w, i ≠ .submit w) ∧ i ≠ .free ∧ ∀ r x a q, i ≠ .alloc r x a q

/-- R29, R31, R78 and R28 ("not observable"): states that differ only where nothing can be observed stay so under every
step. -/
def Obligations.EveryStepKeepsStatesAlike : Prop :=
  ∀ s t s' : State, s.Alike t → step s = .next s' → ∃ t', step t = .next t' ∧ s'.Alike t'

/-- R26, R33: what cannot be observed never shows, in any number of steps: alike states give the same output history and
the same fault register. -/
def Obligations.UnobservableStateNeverShows : Prop :=
  ∀ (k : Nat) (s t s' : State), s.Alike t → Host.Core.run Sys2Proof.core k s = .next s' →
    ∃ t' : State, Host.Core.run Sys2Proof.core k t = .next t' ∧ t'.history = s'.history ∧ t'.fault = s'.fault ∧
      t'.soutQ = s'.soutQ

/-! ### The phase register and the context -/

/-- The codes of R10; the value 3 never occurs. -/
def Obligations.PhaseCodeValues : Prop :=
  Phase.unalloc.code = 0#2 ∧ Phase.ready.code = 1#2 ∧ Phase.callback.code = 2#2 ∧ ∀ p : Phase, p.code ≠ 3#2

/-- R23, D27: the block only stores a context and returns it. Rename the contexts of a state, its waiting commands and its
history in any way: every step then does the same with the renamed ones, so no rule reads what a context is. In UNALLOC
`cb_ctx` holds no value (R29) and may be anything. -/
def Obligations.EveryStepPassesContextsThrough : Prop :=
  ∀ (f : Ctx → Ctx) (s t s' : State), s.RenamedBy f t → step s = .next s' →
    ∃ t', step t = .next t' ∧ s'.RenamedBy f t'
end

