-- ==== Sys2Proof/Laws/Contexts.lean ====
section
/-! SUPPORT. One lemma for each field of State, each event and each instruction under a renaming of contexts. -/

namespace Sys2Proof.Machine

variable (f : Ctx → Ctx) (s : State)

@[simp] theorem State.mapCtx_phase : (s.mapCtx f).phase = s.phase := rfl
@[simp] theorem State.mapCtx_fault : (s.mapCtx f).fault = s.fault := rfl
@[simp] theorem State.mapCtx_irqOk : (s.mapCtx f).irqOk = s.irqOk := rfl
@[simp] theorem State.mapCtx_inAccum : (s.mapCtx f).inAccum = s.inAccum := rfl
@[simp] theorem State.mapCtx_bitCount : (s.mapCtx f).bitCount = s.bitCount := rfl
@[simp] theorem State.mapCtx_outActive : (s.mapCtx f).outActive = s.outActive := rfl
@[simp] theorem State.mapCtx_outPending : (s.mapCtx f).outPending = s.outPending := rfl
@[simp] theorem State.mapCtx_outPendingValid : (s.mapCtx f).outPendingValid = s.outPendingValid := rfl
@[simp] theorem State.mapCtx_idleByte : (s.mapCtx f).idleByte = s.idleByte := rfl
@[simp] theorem State.mapCtx_lastEdgeTime : (s.mapCtx f).lastEdgeTime = s.lastEdgeTime := rfl
@[simp] theorem State.mapCtx_timeoutUs : (s.mapCtx f).timeoutUs = s.timeoutUs := rfl
@[simp] theorem State.mapCtx_clockRole : (s.mapCtx f).clockRole = s.clockRole := rfl
@[simp] theorem State.mapCtx_speed : (s.mapCtx f).speed = s.speed := rfl
@[simp] theorem State.mapCtx_soutQ : (s.mapCtx f).soutQ = s.soutQ := rfl
@[simp] theorem State.mapCtx_params : (s.mapCtx f).params = s.params := rfl
@[simp] theorem State.mapCtx_freeDraws : (s.mapCtx f).freeDraws = s.freeDraws := rfl
@[simp] theorem State.mapCtx_cbCtx : (s.mapCtx f).cbCtx = f s.cbCtx := rfl
@[simp] theorem State.mapCtx_history : (s.mapCtx f).history = s.history.map (Event.mapCtx f) := rfl
@[simp] theorem State.mapCtx_port : (s.mapCtx f).port = s.port.map (mapCommandCtx f) := rfl

@[simp] theorem Event.mapCtx_drive (b : Bool) : Event.mapCtx f (.drive b) = .drive b := rfl
@[simp] theorem Event.mapCtx_callback (v : Byte) (x : Ctx) : Event.mapCtx f (.callback v x) = .callback v (f x) := rfl

@[simp] theorem isEdge_mapInstrCtx (i : Instr) : isEdge (mapInstrCtx f i) = isEdge i := by cases i <;> rfl

end Sys2Proof.Machine
end

