-- ==== Sys2Proof/Laws/Decode.lean ====
section
/-! SUPPORT. The fields of a word the encoder builds, and a word with no reserved bit set rebuilt from its fields. -/

namespace Sys2Proof

@[simp] theorem opOf_mkWord (op : BitVec 8) (p : BitVec 32) : opOf (mkWord op p) = op := by
  apply BitVec.eq_of_getLsbD_eq
  intro i hi
  simp only [opOf, mkWord, BitVec.getLsbD_extractLsb', BitVec.getLsbD_append]
  grind

@[simp] theorem rsvOf_mkWord (op : BitVec 8) (p : BitVec 32) : rsvOf (mkWord op p) = 0#24 := by
  apply BitVec.eq_of_getLsbD_eq
  intro i hi
  simp only [rsvOf, mkWord, BitVec.getLsbD_extractLsb', BitVec.getLsbD_append]
  grind

@[simp] theorem payloadOf_mkWord (op : BitVec 8) (p : BitVec 32) : payloadOf (mkWord op p) = p := by
  apply BitVec.eq_of_getLsbD_eq
  intro i hi
  simp only [payloadOf, mkWord, BitVec.getLsbD_extractLsb', BitVec.getLsbD_append]
  grind

@[simp] theorem imm8Of_bytePayload (v : BitVec 8) : imm8Of (bytePayload v) = v := by
  apply BitVec.eq_of_getLsbD_eq
  intro i hi
  simp only [imm8Of, bytePayload, BitVec.getLsbD_extractLsb', BitVec.getLsbD_append]
  grind

@[simp] theorem byteMbzOf_bytePayload (v : BitVec 8) : byteMbzOf (bytePayload v) = 0#24 := by
  apply BitVec.eq_of_getLsbD_eq
  intro i hi
  simp only [byteMbzOf, bytePayload, BitVec.getLsbD_extractLsb', BitVec.getLsbD_append]
  grind

@[simp] theorem lvlOf_edgePayload (s lvl : Bool) : lvlOf (edgePayload s lvl) = lvl := by
  cases s <;> cases lvl <;> decide

@[simp] theorem sampleOf_edgePayload (s lvl : Bool) : sampleOf (edgePayload s lvl) = s := by
  cases s <;> cases lvl <;> decide

@[simp] theorem edgeMbzOf_edgePayload (s lvl : Bool) : edgeMbzOf (edgePayload s lvl) = 0#30 := by
  cases s <;> cases lvl <;> decide

/-- Only a number of 64 bits is a command word (R34). -/
theorem tableWord_of_width {w : Nat} (h : w < 2 ^ 64) : tableWord 64 w = some (BitVec.ofNat 64 w) :=
  if_pos ⟨rfl, h⟩

theorem tableWord_of_other_width {nbits : Nat} (w : Nat) (h : nbits ≠ 64) : tableWord nbits w = none := by
  simp [tableWord, h]

/-- A word whose reserved bits are 0 is its opcode and its payload. -/
theorem mkWord_fields (w : CmdWord) (h : rsvOf w = 0#24) : mkWord (opOf w) (payloadOf w) = w := by
  have hs : w = opOf w ++ (rsvOf w ++ payloadOf w) := by
    apply BitVec.eq_of_getLsbD_eq
    intro i hi
    simp only [opOf, rsvOf, payloadOf, BitVec.getLsbD_extractLsb', BitVec.getLsbD_append]
    grind
  rw [h] at hs
  exact hs.symm

/-- Decoding a word by its fields. For a word written out, each field is closed by `decide`. -/
theorem decode_of_fields {w : CmdWord} {op : BitVec 8} {p : BitVec 32} (d : Side) (hr : rsvOf w = 0#24)
    (ho : opOf w = op) (hp : payloadOf w = p) : decode ⟨w, d⟩ = decodeOp op p d := by
  simp only [decode, hr, ho, hp, if_true]

@[simp] theorem decode_mkWord (op : BitVec 8) (p : BitVec 32) (d : Side) :
    decode ⟨mkWord op p, d⟩ = decodeOp op p d := by
  simp only [decode, rsvOf_mkWord, opOf_mkWord, payloadOf_mkWord, if_true]

end Sys2Proof
end

