-- ==== Sys2Proof/Laws/State.lean ====
section
/-! SUPPORT. One lemma for each field of State under each named update, so that no proof unfolds an update. -/

namespace Sys2Proof.Machine

variable (s : State)

/-! ### withFault -/

@[simp] theorem State.withFault_phase (c : FaultCode) : (s.withFault c).phase = s.phase := rfl
@[simp] theorem State.withFault_fault (c : FaultCode) : (s.withFault c).fault = c := rfl
@[simp] theorem State.withFault_irqOk (c : FaultCode) : (s.withFault c).irqOk = s.irqOk := rfl
@[simp] theorem State.withFault_inAccum (c : FaultCode) : (s.withFault c).inAccum = s.inAccum := rfl
@[simp] theorem State.withFault_bitCount (c : FaultCode) : (s.withFault c).bitCount = s.bitCount := rfl
@[simp] theorem State.withFault_outActive (c : FaultCode) : (s.withFault c).outActive = s.outActive := rfl
@[simp] theorem State.withFault_outPending (c : FaultCode) : (s.withFault c).outPending = s.outPending := rfl
@[simp] theorem State.withFault_outPendingValid (c : FaultCode) : (s.withFault c).outPendingValid = s.outPendingValid := rfl
@[simp] theorem State.withFault_idleByte (c : FaultCode) : (s.withFault c).idleByte = s.idleByte := rfl
@[simp] theorem State.withFault_lastEdgeTime (c : FaultCode) : (s.withFault c).lastEdgeTime = s.lastEdgeTime := rfl
@[simp] theorem State.withFault_timeoutUs (c : FaultCode) : (s.withFault c).timeoutUs = s.timeoutUs := rfl
@[simp] theorem State.withFault_clockRole (c : FaultCode) : (s.withFault c).clockRole = s.clockRole := rfl
@[simp] theorem State.withFault_speed (c : FaultCode) : (s.withFault c).speed = s.speed := rfl
@[simp] theorem State.withFault_cbCtx (c : FaultCode) : (s.withFault c).cbCtx = s.cbCtx := rfl
@[simp] theorem State.withFault_soutQ (c : FaultCode) : (s.withFault c).soutQ = s.soutQ := rfl
@[simp] theorem State.withFault_history (c : FaultCode) : (s.withFault c).history = s.history := rfl
@[simp] theorem State.withFault_params (c : FaultCode) : (s.withFault c).params = s.params := rfl
@[simp] theorem State.withFault_port (c : FaultCode) : (s.withFault c).port = s.port := rfl
@[simp] theorem State.withFault_freeDraws (c : FaultCode) : (s.withFault c).freeDraws = s.freeDraws := rfl

/-! ### queueByte -/

@[simp] theorem State.queueByte_phase (v : Byte) : (s.queueByte v).phase = s.phase := rfl
@[simp] theorem State.queueByte_fault (v : Byte) : (s.queueByte v).fault = s.fault := rfl
@[simp] theorem State.queueByte_irqOk (v : Byte) : (s.queueByte v).irqOk = s.irqOk := rfl
@[simp] theorem State.queueByte_inAccum (v : Byte) : (s.queueByte v).inAccum = s.inAccum := rfl
@[simp] theorem State.queueByte_bitCount (v : Byte) : (s.queueByte v).bitCount = s.bitCount := rfl
@[simp] theorem State.queueByte_outActive (v : Byte) : (s.queueByte v).outActive = s.outActive := rfl
@[simp] theorem State.queueByte_outPending (v : Byte) : (s.queueByte v).outPending = v := rfl
@[simp] theorem State.queueByte_outPendingValid (v : Byte) : (s.queueByte v).outPendingValid = true := rfl
@[simp] theorem State.queueByte_idleByte (v : Byte) : (s.queueByte v).idleByte = s.idleByte := rfl
@[simp] theorem State.queueByte_lastEdgeTime (v : Byte) : (s.queueByte v).lastEdgeTime = s.lastEdgeTime := rfl
@[simp] theorem State.queueByte_timeoutUs (v : Byte) : (s.queueByte v).timeoutUs = s.timeoutUs := rfl
@[simp] theorem State.queueByte_clockRole (v : Byte) : (s.queueByte v).clockRole = s.clockRole := rfl
@[simp] theorem State.queueByte_speed (v : Byte) : (s.queueByte v).speed = s.speed := rfl
@[simp] theorem State.queueByte_cbCtx (v : Byte) : (s.queueByte v).cbCtx = s.cbCtx := rfl
@[simp] theorem State.queueByte_soutQ (v : Byte) : (s.queueByte v).soutQ = s.soutQ := rfl
@[simp] theorem State.queueByte_history (v : Byte) : (s.queueByte v).history = s.history := rfl
@[simp] theorem State.queueByte_params (v : Byte) : (s.queueByte v).params = s.params := rfl
@[simp] theorem State.queueByte_port (v : Byte) : (s.queueByte v).port = s.port := rfl
@[simp] theorem State.queueByte_freeDraws (v : Byte) : (s.queueByte v).freeDraws = s.freeDraws := rfl

/-! ### loadByte -/

@[simp] theorem State.loadByte_phase (v : Byte) : (s.loadByte v).phase = s.phase := rfl
@[simp] theorem State.loadByte_fault (v : Byte) : (s.loadByte v).fault = s.fault := rfl
@[simp] theorem State.loadByte_irqOk (v : Byte) : (s.loadByte v).irqOk = s.irqOk := rfl
@[simp] theorem State.loadByte_inAccum (v : Byte) : (s.loadByte v).inAccum = s.inAccum := rfl
@[simp] theorem State.loadByte_bitCount (v : Byte) : (s.loadByte v).bitCount = s.bitCount := rfl
@[simp] theorem State.loadByte_outActive (v : Byte) : (s.loadByte v).outActive = v := rfl
@[simp] theorem State.loadByte_outPending (v : Byte) : (s.loadByte v).outPending = s.outPending := rfl
@[simp] theorem State.loadByte_outPendingValid (v : Byte) : (s.loadByte v).outPendingValid = false := rfl
@[simp] theorem State.loadByte_idleByte (v : Byte) : (s.loadByte v).idleByte = s.idleByte := rfl
@[simp] theorem State.loadByte_lastEdgeTime (v : Byte) : (s.loadByte v).lastEdgeTime = s.lastEdgeTime := rfl
@[simp] theorem State.loadByte_timeoutUs (v : Byte) : (s.loadByte v).timeoutUs = s.timeoutUs := rfl
@[simp] theorem State.loadByte_clockRole (v : Byte) : (s.loadByte v).clockRole = s.clockRole := rfl
@[simp] theorem State.loadByte_speed (v : Byte) : (s.loadByte v).speed = s.speed := rfl
@[simp] theorem State.loadByte_cbCtx (v : Byte) : (s.loadByte v).cbCtx = s.cbCtx := rfl
@[simp] theorem State.loadByte_soutQ (v : Byte) : (s.loadByte v).soutQ = s.soutQ := rfl
@[simp] theorem State.loadByte_history (v : Byte) : (s.loadByte v).history = s.history := rfl
@[simp] theorem State.loadByte_params (v : Byte) : (s.loadByte v).params = s.params := rfl
@[simp] theorem State.loadByte_port (v : Byte) : (s.loadByte v).port = s.port := rfl
@[simp] theorem State.loadByte_freeDraws (v : Byte) : (s.loadByte v).freeDraws = s.freeDraws := rfl

/-! ### emit -/

@[simp] theorem State.emit_phase (e : Event) : (s.emit e).phase = s.phase := rfl
@[simp] theorem State.emit_fault (e : Event) : (s.emit e).fault = s.fault := rfl
@[simp] theorem State.emit_irqOk (e : Event) : (s.emit e).irqOk = s.irqOk := rfl
@[simp] theorem State.emit_inAccum (e : Event) : (s.emit e).inAccum = s.inAccum := rfl
@[simp] theorem State.emit_bitCount (e : Event) : (s.emit e).bitCount = s.bitCount := rfl
@[simp] theorem State.emit_outActive (e : Event) : (s.emit e).outActive = s.outActive := rfl
@[simp] theorem State.emit_outPending (e : Event) : (s.emit e).outPending = s.outPending := rfl
@[simp] theorem State.emit_outPendingValid (e : Event) : (s.emit e).outPendingValid = s.outPendingValid := rfl
@[simp] theorem State.emit_idleByte (e : Event) : (s.emit e).idleByte = s.idleByte := rfl
@[simp] theorem State.emit_lastEdgeTime (e : Event) : (s.emit e).lastEdgeTime = s.lastEdgeTime := rfl
@[simp] theorem State.emit_timeoutUs (e : Event) : (s.emit e).timeoutUs = s.timeoutUs := rfl
@[simp] theorem State.emit_clockRole (e : Event) : (s.emit e).clockRole = s.clockRole := rfl
@[simp] theorem State.emit_speed (e : Event) : (s.emit e).speed = s.speed := rfl
@[simp] theorem State.emit_cbCtx (e : Event) : (s.emit e).cbCtx = s.cbCtx := rfl
@[simp] theorem State.emit_soutQ (e : Event) : (s.emit e).soutQ = s.soutQ := rfl
@[simp] theorem State.emit_history (e : Event) : (s.emit e).history = s.history ++ [e] := rfl
@[simp] theorem State.emit_params (e : Event) : (s.emit e).params = s.params := rfl
@[simp] theorem State.emit_port (e : Event) : (s.emit e).port = s.port := rfl
@[simp] theorem State.emit_freeDraws (e : Event) : (s.emit e).freeDraws = s.freeDraws := rfl

/-! ### enterCallback -/

@[simp] theorem State.enterCallback_phase : (s.enterCallback).phase = .callback := rfl
@[simp] theorem State.enterCallback_fault : (s.enterCallback).fault = s.fault := rfl
@[simp] theorem State.enterCallback_irqOk : (s.enterCallback).irqOk = s.irqOk := rfl
@[simp] theorem State.enterCallback_inAccum : (s.enterCallback).inAccum = s.inAccum := rfl
@[simp] theorem State.enterCallback_bitCount : (s.enterCallback).bitCount = s.bitCount := rfl
@[simp] theorem State.enterCallback_outActive : (s.enterCallback).outActive = s.outActive := rfl
@[simp] theorem State.enterCallback_outPending : (s.enterCallback).outPending = s.outPending := rfl
@[simp] theorem State.enterCallback_outPendingValid : (s.enterCallback).outPendingValid = s.outPendingValid := rfl
@[simp] theorem State.enterCallback_idleByte : (s.enterCallback).idleByte = s.idleByte := rfl
@[simp] theorem State.enterCallback_lastEdgeTime : (s.enterCallback).lastEdgeTime = s.lastEdgeTime := rfl
@[simp] theorem State.enterCallback_timeoutUs : (s.enterCallback).timeoutUs = s.timeoutUs := rfl
@[simp] theorem State.enterCallback_clockRole : (s.enterCallback).clockRole = s.clockRole := rfl
@[simp] theorem State.enterCallback_speed : (s.enterCallback).speed = s.speed := rfl
@[simp] theorem State.enterCallback_cbCtx : (s.enterCallback).cbCtx = s.cbCtx := rfl
@[simp] theorem State.enterCallback_soutQ : (s.enterCallback).soutQ = s.soutQ := rfl
@[simp] theorem State.enterCallback_history : (s.enterCallback).history = s.history ++ [.callback s.inAccum s.cbCtx] := rfl
@[simp] theorem State.enterCallback_params : (s.enterCallback).params = s.params := rfl
@[simp] theorem State.enterCallback_port : (s.enterCallback).port = s.port := rfl
@[simp] theorem State.enterCallback_freeDraws : (s.enterCallback).freeDraws = s.freeDraws := rfl

/-! ### leaveCallback -/

@[simp] theorem State.leaveCallback_phase : (s.leaveCallback).phase = .ready := rfl
@[simp] theorem State.leaveCallback_fault : (s.leaveCallback).fault = s.fault := rfl
@[simp] theorem State.leaveCallback_irqOk : (s.leaveCallback).irqOk = s.irqOk := rfl
@[simp] theorem State.leaveCallback_inAccum : (s.leaveCallback).inAccum = s.inAccum := rfl
@[simp] theorem State.leaveCallback_bitCount : (s.leaveCallback).bitCount = s.bitCount := rfl
@[simp] theorem State.leaveCallback_outActive : (s.leaveCallback).outActive = s.outActive := rfl
@[simp] theorem State.leaveCallback_outPending : (s.leaveCallback).outPending = s.outPending := rfl
@[simp] theorem State.leaveCallback_outPendingValid : (s.leaveCallback).outPendingValid = s.outPendingValid := rfl
@[simp] theorem State.leaveCallback_idleByte : (s.leaveCallback).idleByte = s.idleByte := rfl
@[simp] theorem State.leaveCallback_lastEdgeTime : (s.leaveCallback).lastEdgeTime = s.lastEdgeTime := rfl
@[simp] theorem State.leaveCallback_timeoutUs : (s.leaveCallback).timeoutUs = s.timeoutUs := rfl
@[simp] theorem State.leaveCallback_clockRole : (s.leaveCallback).clockRole = s.clockRole := rfl
@[simp] theorem State.leaveCallback_speed : (s.leaveCallback).speed = s.speed := rfl
@[simp] theorem State.leaveCallback_cbCtx : (s.leaveCallback).cbCtx = s.cbCtx := rfl
@[simp] theorem State.leaveCallback_soutQ : (s.leaveCallback).soutQ = s.soutQ := rfl
@[simp] theorem State.leaveCallback_history : (s.leaveCallback).history = s.history := rfl
@[simp] theorem State.leaveCallback_params : (s.leaveCallback).params = s.params := rfl
@[simp] theorem State.leaveCallback_port : (s.leaveCallback).port = s.port := rfl
@[simp] theorem State.leaveCallback_freeDraws : (s.leaveCallback).freeDraws = s.freeDraws := rfl

/-! ### shiftIn -/

@[simp] theorem State.shiftIn_phase (b : Bool) : (s.shiftIn b).phase = s.phase := rfl
@[simp] theorem State.shiftIn_fault (b : Bool) : (s.shiftIn b).fault = s.fault := rfl
@[simp] theorem State.shiftIn_irqOk (b : Bool) : (s.shiftIn b).irqOk = s.irqOk := rfl
@[simp] theorem State.shiftIn_inAccum (b : Bool) : (s.shiftIn b).inAccum = shiftedIn s.inAccum b := rfl
@[simp] theorem State.shiftIn_bitCount (b : Bool) : (s.shiftIn b).bitCount = s.bitCount + 1#4 := rfl
@[simp] theorem State.shiftIn_outActive (b : Bool) : (s.shiftIn b).outActive = s.outActive := rfl
@[simp] theorem State.shiftIn_outPending (b : Bool) : (s.shiftIn b).outPending = s.outPending := rfl
@[simp] theorem State.shiftIn_outPendingValid (b : Bool) : (s.shiftIn b).outPendingValid = s.outPendingValid := rfl
@[simp] theorem State.shiftIn_idleByte (b : Bool) : (s.shiftIn b).idleByte = s.idleByte := rfl
@[simp] theorem State.shiftIn_lastEdgeTime (b : Bool) : (s.shiftIn b).lastEdgeTime = s.lastEdgeTime := rfl
@[simp] theorem State.shiftIn_timeoutUs (b : Bool) : (s.shiftIn b).timeoutUs = s.timeoutUs := rfl
@[simp] theorem State.shiftIn_clockRole (b : Bool) : (s.shiftIn b).clockRole = s.clockRole := rfl
@[simp] theorem State.shiftIn_speed (b : Bool) : (s.shiftIn b).speed = s.speed := rfl
@[simp] theorem State.shiftIn_cbCtx (b : Bool) : (s.shiftIn b).cbCtx = s.cbCtx := rfl
@[simp] theorem State.shiftIn_soutQ (b : Bool) : (s.shiftIn b).soutQ = s.soutQ := rfl
@[simp] theorem State.shiftIn_history (b : Bool) : (s.shiftIn b).history = s.history := rfl
@[simp] theorem State.shiftIn_params (b : Bool) : (s.shiftIn b).params = s.params := rfl
@[simp] theorem State.shiftIn_port (b : Bool) : (s.shiftIn b).port = s.port := rfl
@[simp] theorem State.shiftIn_freeDraws (b : Bool) : (s.shiftIn b).freeDraws = s.freeDraws := rfl

/-! ### clearCount -/

@[simp] theorem State.clearCount_phase : (s.clearCount).phase = s.phase := rfl
@[simp] theorem State.clearCount_fault : (s.clearCount).fault = s.fault := rfl
@[simp] theorem State.clearCount_irqOk : (s.clearCount).irqOk = s.irqOk := rfl
@[simp] theorem State.clearCount_inAccum : (s.clearCount).inAccum = s.inAccum := rfl
@[simp] theorem State.clearCount_bitCount : (s.clearCount).bitCount = 0#4 := rfl
@[simp] theorem State.clearCount_outActive : (s.clearCount).outActive = s.outActive := rfl
@[simp] theorem State.clearCount_outPending : (s.clearCount).outPending = s.outPending := rfl
@[simp] theorem State.clearCount_outPendingValid : (s.clearCount).outPendingValid = s.outPendingValid := rfl
@[simp] theorem State.clearCount_idleByte : (s.clearCount).idleByte = s.idleByte := rfl
@[simp] theorem State.clearCount_lastEdgeTime : (s.clearCount).lastEdgeTime = s.lastEdgeTime := rfl
@[simp] theorem State.clearCount_timeoutUs : (s.clearCount).timeoutUs = s.timeoutUs := rfl
@[simp] theorem State.clearCount_clockRole : (s.clearCount).clockRole = s.clockRole := rfl
@[simp] theorem State.clearCount_speed : (s.clearCount).speed = s.speed := rfl
@[simp] theorem State.clearCount_cbCtx : (s.clearCount).cbCtx = s.cbCtx := rfl
@[simp] theorem State.clearCount_soutQ : (s.clearCount).soutQ = s.soutQ := rfl
@[simp] theorem State.clearCount_history : (s.clearCount).history = s.history := rfl
@[simp] theorem State.clearCount_params : (s.clearCount).params = s.params := rfl
@[simp] theorem State.clearCount_port : (s.clearCount).port = s.port := rfl
@[simp] theorem State.clearCount_freeDraws : (s.clearCount).freeDraws = s.freeDraws := rfl

/-! ### driveBit -/

@[simp] theorem State.driveBit_phase : (s.driveBit).phase = s.phase := rfl
@[simp] theorem State.driveBit_fault : (s.driveBit).fault = s.fault := rfl
@[simp] theorem State.driveBit_irqOk : (s.driveBit).irqOk = s.irqOk := rfl
@[simp] theorem State.driveBit_inAccum : (s.driveBit).inAccum = s.inAccum := rfl
@[simp] theorem State.driveBit_bitCount : (s.driveBit).bitCount = s.bitCount := rfl
@[simp] theorem State.driveBit_outActive : (s.driveBit).outActive = shiftedOut s.outActive s.params.outFill := rfl
@[simp] theorem State.driveBit_outPending : (s.driveBit).outPending = s.outPending := rfl
@[simp] theorem State.driveBit_outPendingValid : (s.driveBit).outPendingValid = s.outPendingValid := rfl
@[simp] theorem State.driveBit_idleByte : (s.driveBit).idleByte = s.idleByte := rfl
@[simp] theorem State.driveBit_lastEdgeTime : (s.driveBit).lastEdgeTime = s.lastEdgeTime := rfl
@[simp] theorem State.driveBit_timeoutUs : (s.driveBit).timeoutUs = s.timeoutUs := rfl
@[simp] theorem State.driveBit_clockRole : (s.driveBit).clockRole = s.clockRole := rfl
@[simp] theorem State.driveBit_speed : (s.driveBit).speed = s.speed := rfl
@[simp] theorem State.driveBit_cbCtx : (s.driveBit).cbCtx = s.cbCtx := rfl
@[simp] theorem State.driveBit_soutQ : (s.driveBit).soutQ = topBit s.outActive := rfl
@[simp] theorem State.driveBit_history : (s.driveBit).history = s.history ++ [.drive (topBit s.outActive)] := rfl
@[simp] theorem State.driveBit_params : (s.driveBit).params = s.params := rfl
@[simp] theorem State.driveBit_port : (s.driveBit).port = s.port := rfl
@[simp] theorem State.driveBit_freeDraws : (s.driveBit).freeDraws = s.freeDraws := rfl

/-! ### allocate -/

@[simp] theorem State.allocate_phase (r : Tag) (c : Ctx) (q : Bool) : (s.allocate r c q).phase = .ready := rfl
@[simp] theorem State.allocate_fault (r : Tag) (c : Ctx) (q : Bool) : (s.allocate r c q).fault = s.fault := rfl
@[simp] theorem State.allocate_irqOk (r : Tag) (c : Ctx) (q : Bool) : (s.allocate r c q).irqOk = q := rfl
@[simp] theorem State.allocate_inAccum (r : Tag) (c : Ctx) (q : Bool) : (s.allocate r c q).inAccum = 0#8 := rfl
@[simp] theorem State.allocate_bitCount (r : Tag) (c : Ctx) (q : Bool) : (s.allocate r c q).bitCount = 0#4 := rfl
@[simp] theorem State.allocate_outActive (r : Tag) (c : Ctx) (q : Bool) : (s.allocate r c q).outActive = s.params.outActiveReset := rfl
@[simp] theorem State.allocate_outPending (r : Tag) (c : Ctx) (q : Bool) : (s.allocate r c q).outPending = 0#8 := rfl
@[simp] theorem State.allocate_outPendingValid (r : Tag) (c : Ctx) (q : Bool) : (s.allocate r c q).outPendingValid = false := rfl
@[simp] theorem State.allocate_idleByte (r : Tag) (c : Ctx) (q : Bool) : (s.allocate r c q).idleByte = s.params.idleByteReset := rfl
@[simp] theorem State.allocate_lastEdgeTime (r : Tag) (c : Ctx) (q : Bool) : (s.allocate r c q).lastEdgeTime = 0#64 := rfl
@[simp] theorem State.allocate_timeoutUs (r : Tag) (c : Ctx) (q : Bool) : (s.allocate r c q).timeoutUs = timeoutReset := rfl
@[simp] theorem State.allocate_clockRole (r : Tag) (c : Ctx) (q : Bool) : (s.allocate r c q).clockRole = r := rfl
@[simp] theorem State.allocate_speed (r : Tag) (c : Ctx) (q : Bool) : (s.allocate r c q).speed = s.params.speedReset := rfl
@[simp] theorem State.allocate_cbCtx (r : Tag) (c : Ctx) (q : Bool) : (s.allocate r c q).cbCtx = c := rfl
@[simp] theorem State.allocate_soutQ (r : Tag) (c : Ctx) (q : Bool) : (s.allocate r c q).soutQ = s.soutQ := rfl
@[simp] theorem State.allocate_history (r : Tag) (c : Ctx) (q : Bool) : (s.allocate r c q).history = s.history := rfl
@[simp] theorem State.allocate_params (r : Tag) (c : Ctx) (q : Bool) : (s.allocate r c q).params = s.params := rfl
@[simp] theorem State.allocate_port (r : Tag) (c : Ctx) (q : Bool) : (s.allocate r c q).port = s.port := rfl
@[simp] theorem State.allocate_freeDraws (r : Tag) (c : Ctx) (q : Bool) : (s.allocate r c q).freeDraws = s.freeDraws := rfl

/-! ### release -/

@[simp] theorem State.release_phase : (s.release).phase = .unalloc := rfl
@[simp] theorem State.release_fault : (s.release).fault = s.fault := rfl
@[simp] theorem State.release_irqOk : (s.release).irqOk = false := rfl
@[simp] theorem State.release_inAccum : (s.release).inAccum = Config.freeInAccum s.freeDraws := rfl
@[simp] theorem State.release_bitCount : (s.release).bitCount = BitVec.ofNat 4 (Config.freeBitCount s.freeDraws).val := rfl
@[simp] theorem State.release_outActive : (s.release).outActive = Config.freeOutActive s.freeDraws := rfl
@[simp] theorem State.release_outPending : (s.release).outPending = Config.freeOutPending s.freeDraws := rfl
@[simp] theorem State.release_outPendingValid : (s.release).outPendingValid = Config.freeOutPendingValid s.freeDraws := rfl
@[simp] theorem State.release_idleByte : (s.release).idleByte = Config.freeIdleByte s.freeDraws := rfl
@[simp] theorem State.release_lastEdgeTime : (s.release).lastEdgeTime = Config.freeLastEdgeTime s.freeDraws := rfl
@[simp] theorem State.release_timeoutUs : (s.release).timeoutUs = Config.freeTimeoutUs s.freeDraws := rfl
@[simp] theorem State.release_clockRole : (s.release).clockRole = Config.freeClockRole s.freeDraws := rfl
@[simp] theorem State.release_speed : (s.release).speed = Config.freeSpeed s.freeDraws := rfl
@[simp] theorem State.release_cbCtx : (s.release).cbCtx = Config.freeCbCtx s.freeDraws := rfl
@[simp] theorem State.release_soutQ : (s.release).soutQ = true := rfl
@[simp] theorem State.release_history : (s.release).history = s.history := rfl
@[simp] theorem State.release_params : (s.release).params = s.params := rfl
@[simp] theorem State.release_port : (s.release).port = s.port := rfl
@[simp] theorem State.release_freeDraws : (s.release).freeDraws = s.freeDraws + 1 := rfl

/-! ### withPort -/

@[simp] theorem State.withPort_phase (p : List Command) : (s.withPort p).phase = s.phase := rfl
@[simp] theorem State.withPort_fault (p : List Command) : (s.withPort p).fault = s.fault := rfl
@[simp] theorem State.withPort_irqOk (p : List Command) : (s.withPort p).irqOk = s.irqOk := rfl
@[simp] theorem State.withPort_inAccum (p : List Command) : (s.withPort p).inAccum = s.inAccum := rfl
@[simp] theorem State.withPort_bitCount (p : List Command) : (s.withPort p).bitCount = s.bitCount := rfl
@[simp] theorem State.withPort_outActive (p : List Command) : (s.withPort p).outActive = s.outActive := rfl
@[simp] theorem State.withPort_outPending (p : List Command) : (s.withPort p).outPending = s.outPending := rfl
@[simp] theorem State.withPort_outPendingValid (p : List Command) : (s.withPort p).outPendingValid = s.outPendingValid := rfl
@[simp] theorem State.withPort_idleByte (p : List Command) : (s.withPort p).idleByte = s.idleByte := rfl
@[simp] theorem State.withPort_lastEdgeTime (p : List Command) : (s.withPort p).lastEdgeTime = s.lastEdgeTime := rfl
@[simp] theorem State.withPort_timeoutUs (p : List Command) : (s.withPort p).timeoutUs = s.timeoutUs := rfl
@[simp] theorem State.withPort_clockRole (p : List Command) : (s.withPort p).clockRole = s.clockRole := rfl
@[simp] theorem State.withPort_speed (p : List Command) : (s.withPort p).speed = s.speed := rfl
@[simp] theorem State.withPort_cbCtx (p : List Command) : (s.withPort p).cbCtx = s.cbCtx := rfl
@[simp] theorem State.withPort_soutQ (p : List Command) : (s.withPort p).soutQ = s.soutQ := rfl
@[simp] theorem State.withPort_history (p : List Command) : (s.withPort p).history = s.history := rfl
@[simp] theorem State.withPort_params (p : List Command) : (s.withPort p).params = s.params := rfl
@[simp] theorem State.withPort_port (p : List Command) : (s.withPort p).port = p := rfl
@[simp] theorem State.withPort_freeDraws (p : List Command) : (s.withPort p).freeDraws = s.freeDraws := rfl

/-! ### promote -/

@[simp] theorem State.promote_phase : (s.promote).phase = s.phase := by
  unfold State.promote
  split <;> simp_all

@[simp] theorem State.promote_fault : (s.promote).fault = s.fault := by
  unfold State.promote
  split <;> simp_all

@[simp] theorem State.promote_irqOk : (s.promote).irqOk = s.irqOk := by
  unfold State.promote
  split <;> simp_all

@[simp] theorem State.promote_inAccum : (s.promote).inAccum = s.inAccum := by
  unfold State.promote
  split <;> simp_all

@[simp] theorem State.promote_bitCount : (s.promote).bitCount = s.bitCount := by
  unfold State.promote
  split <;> simp_all

@[simp] theorem State.promote_outActive : (s.promote).outActive = if s.outPendingValid then s.outPending else s.idleByte := by
  unfold State.promote
  split <;> simp_all

@[simp] theorem State.promote_outPending : (s.promote).outPending = s.outPending := by
  unfold State.promote
  split <;> simp_all

@[simp] theorem State.promote_outPendingValid : (s.promote).outPendingValid = false := by
  unfold State.promote
  split <;> simp_all

@[simp] theorem State.promote_idleByte : (s.promote).idleByte = s.idleByte := by
  unfold State.promote
  split <;> simp_all

@[simp] theorem State.promote_lastEdgeTime : (s.promote).lastEdgeTime = s.lastEdgeTime := by
  unfold State.promote
  split <;> simp_all

@[simp] theorem State.promote_timeoutUs : (s.promote).timeoutUs = s.timeoutUs := by
  unfold State.promote
  split <;> simp_all

@[simp] theorem State.promote_clockRole : (s.promote).clockRole = s.clockRole := by
  unfold State.promote
  split <;> simp_all

@[simp] theorem State.promote_speed : (s.promote).speed = s.speed := by
  unfold State.promote
  split <;> simp_all

@[simp] theorem State.promote_cbCtx : (s.promote).cbCtx = s.cbCtx := by
  unfold State.promote
  split <;> simp_all

@[simp] theorem State.promote_soutQ : (s.promote).soutQ = s.soutQ := by
  unfold State.promote
  split <;> simp_all

@[simp] theorem State.promote_history : (s.promote).history = s.history := by
  unfold State.promote
  split <;> simp_all

@[simp] theorem State.promote_params : (s.promote).params = s.params := by
  unfold State.promote
  split <;> simp_all

@[simp] theorem State.promote_port : (s.promote).port = s.port := by
  unfold State.promote
  split <;> simp_all

@[simp] theorem State.promote_freeDraws : (s.promote).freeDraws = s.freeDraws := by
  unfold State.promote
  split <;> simp_all

/-! ### resync -/

@[simp] theorem State.resync_phase (now : Time) : (s.resync now).phase = s.phase := by
  unfold State.resync
  split <;> simp_all

@[simp] theorem State.resync_fault (now : Time) : (s.resync now).fault = s.fault := by
  unfold State.resync
  split <;> simp_all

@[simp] theorem State.resync_irqOk (now : Time) : (s.resync now).irqOk = s.irqOk := by
  unfold State.resync
  split <;> simp_all

@[simp] theorem State.resync_inAccum (now : Time) : (s.resync now).inAccum = if stale now s.lastEdgeTime s.timeoutUs then 0#8 else s.inAccum := by
  unfold State.resync
  split <;> simp_all

@[simp] theorem State.resync_bitCount (now : Time) : (s.resync now).bitCount = if stale now s.lastEdgeTime s.timeoutUs then 0#4 else s.bitCount := by
  unfold State.resync
  split <;> simp_all

@[simp] theorem State.resync_outActive (now : Time) : (s.resync now).outActive = s.outActive := by
  unfold State.resync
  split <;> simp_all

@[simp] theorem State.resync_outPending (now : Time) : (s.resync now).outPending = s.outPending := by
  unfold State.resync
  split <;> simp_all

@[simp] theorem State.resync_outPendingValid (now : Time) : (s.resync now).outPendingValid = s.outPendingValid := by
  unfold State.resync
  split <;> simp_all

@[simp] theorem State.resync_idleByte (now : Time) : (s.resync now).idleByte = s.idleByte := by
  unfold State.resync
  split <;> simp_all

@[simp] theorem State.resync_lastEdgeTime (now : Time) : (s.resync now).lastEdgeTime = now := by
  unfold State.resync
  split <;> simp_all

@[simp] theorem State.resync_timeoutUs (now : Time) : (s.resync now).timeoutUs = s.timeoutUs := by
  unfold State.resync
  split <;> simp_all

@[simp] theorem State.resync_clockRole (now : Time) : (s.resync now).clockRole = s.clockRole := by
  unfold State.resync
  split <;> simp_all

@[simp] theorem State.resync_speed (now : Time) : (s.resync now).speed = s.speed := by
  unfold State.resync
  split <;> simp_all

@[simp] theorem State.resync_cbCtx (now : Time) : (s.resync now).cbCtx = s.cbCtx := by
  unfold State.resync
  split <;> simp_all

@[simp] theorem State.resync_soutQ (now : Time) : (s.resync now).soutQ = s.soutQ := by
  unfold State.resync
  split <;> simp_all

@[simp] theorem State.resync_history (now : Time) : (s.resync now).history = s.history := by
  unfold State.resync
  split <;> simp_all

@[simp] theorem State.resync_params (now : Time) : (s.resync now).params = s.params := by
  unfold State.resync
  split <;> simp_all

@[simp] theorem State.resync_port (now : Time) : (s.resync now).port = s.port := by
  unfold State.resync
  split <;> simp_all

@[simp] theorem State.resync_freeDraws (now : Time) : (s.resync now).freeDraws = s.freeDraws := by
  unfold State.resync
  split <;> simp_all

/-! ### boundary -/

@[simp] theorem State.boundary_fault : (s.boundary).fault = s.fault := by
  unfold State.boundary
  split <;> simp

@[simp] theorem State.boundary_irqOk : (s.boundary).irqOk = s.irqOk := by
  unfold State.boundary
  split <;> simp

@[simp] theorem State.boundary_inAccum : (s.boundary).inAccum = s.inAccum := by
  unfold State.boundary
  split <;> simp

@[simp] theorem State.boundary_outPending : (s.boundary).outPending = s.outPending := by
  unfold State.boundary
  split <;> simp

@[simp] theorem State.boundary_idleByte : (s.boundary).idleByte = s.idleByte := by
  unfold State.boundary
  split <;> simp

@[simp] theorem State.boundary_lastEdgeTime : (s.boundary).lastEdgeTime = s.lastEdgeTime := by
  unfold State.boundary
  split <;> simp

@[simp] theorem State.boundary_timeoutUs : (s.boundary).timeoutUs = s.timeoutUs := by
  unfold State.boundary
  split <;> simp

@[simp] theorem State.boundary_clockRole : (s.boundary).clockRole = s.clockRole := by
  unfold State.boundary
  split <;> simp

@[simp] theorem State.boundary_speed : (s.boundary).speed = s.speed := by
  unfold State.boundary
  split <;> simp

@[simp] theorem State.boundary_cbCtx : (s.boundary).cbCtx = s.cbCtx := by
  unfold State.boundary
  split <;> simp

@[simp] theorem State.boundary_soutQ : (s.boundary).soutQ = s.soutQ := by
  unfold State.boundary
  split <;> simp

@[simp] theorem State.boundary_params : (s.boundary).params = s.params := by
  unfold State.boundary
  split <;> simp

@[simp] theorem State.boundary_port : (s.boundary).port = s.port := by
  unfold State.boundary
  split <;> simp

@[simp] theorem State.boundary_freeDraws : (s.boundary).freeDraws = s.freeDraws := by
  unfold State.boundary
  split <;> simp

end Sys2Proof.Machine
end

