-- ==== Sys2Proof/Laws/Ops.lean ====
section
/-! SUPPORT. What each shared operation can do, said once: the gates, the byte boundary, and taking a command. -/

namespace Sys2Proof.Machine

variable {s t : State} {k : Result}

@[simp] theorem raise_eq (s : State) (c : FaultCode) : raise s c = .next (s.withFault c) := rfl

theorem whenClear_good (h : s.fault = .none) : whenClear s k = k := if_pos h

theorem whenClear_faulted (h : s.fault ≠ .none) : whenClear s k = .next s := if_neg h

/-- A faulted state is left as it is; otherwise the command goes on. -/
theorem whenClear_cases (s : State) (k : Result) :
    (s.fault ≠ .none ∧ whenClear s k = .next s) ∨ (s.fault = .none ∧ whenClear s k = k) := by
  by_cases h : s.fault = .none
  · exact .inr ⟨h, whenClear_good h⟩
  · exact .inl ⟨h, whenClear_faulted h⟩

/-- The same, read from the state after. -/
theorem whenClear_next (h : whenClear s k = .next t) : (s.fault ≠ .none ∧ t = s) ∨ (s.fault = .none ∧ k = .next t) := by
  rcases whenClear_cases s k with ⟨hf, e⟩ | ⟨hf, e⟩
  · rw [e] at h
    cases h
    exact .inl ⟨hf, rfl⟩
  · exact .inr ⟨hf, e ▸ h⟩

theorem onEdge_accepts (h : s.AcceptsEdges) : onEdge s k = k := by
  obtain ⟨hf, hp, hq⟩ := h
  simp [onEdge, whenClear, hf, hp, hq]

/-- An EDGE that is not executed changes nothing: faulted, ignored or held. -/
theorem onEdge_rejects (h : ¬ s.AcceptsEdges) : onEdge s k = .next s := by
  unfold onEdge whenClear
  split
  · rename_i hf
    split
    · rfl
    · rename_i hn
      split
      · rfl
      · rename_i hc
        have hr : s.phase = .ready := by
          cases hp : s.phase <;> simp_all
        exact absurd ⟨hf, hr, by simpa [hr] using hn⟩ h
  · rfl

theorem onHandle_executes (hf : s.fault = .none) (hp : s.phase ≠ .unalloc) : onHandle s k = k := by
  simp [onHandle, whenClear, hf, hp]

theorem onHandle_unalloc (hf : s.fault = .none) (hp : s.phase = .unalloc) :
    onHandle s k = .next (s.withFault .notAllocated) := by
  simp [onHandle, whenClear, hf, hp]

/-- A host command on the handle: shut out by a fault, NOT_ALLOCATED, or executed. -/
theorem onHandle_cases (s : State) (k : Result) :
    (s.fault ≠ .none ∧ onHandle s k = .next s) ∨
    (s.fault = .none ∧ s.phase = .unalloc ∧ onHandle s k = .next (s.withFault .notAllocated)) ∨
    (s.fault = .none ∧ s.phase ≠ .unalloc ∧ onHandle s k = k) := by
  by_cases hf : s.fault = .none
  · by_cases hp : s.phase = .unalloc
    · exact .inr (.inl ⟨hf, hp, onHandle_unalloc hf hp⟩)
    · exact .inr (.inr ⟨hf, hp, onHandle_executes hf hp⟩)
  · exact .inl ⟨hf, whenClear_faulted hf⟩

theorem onHandle_next {u : State} (h : onHandle s (.next u) = .next t) :
    (s.fault ≠ .none ∧ t = s) ∨ (s.fault = .none ∧ s.phase = .unalloc ∧ t = s.withFault .notAllocated) ∨
    (s.fault = .none ∧ s.phase ≠ .unalloc ∧ t = u) := by
  rcases onHandle_cases s (.next u) with ⟨hf, e⟩ | ⟨hf, hp, e⟩ | ⟨hf, hp, e⟩ <;> rw [e] at h <;> cases h
  · exact .inl ⟨hf, rfl⟩
  · exact .inr (.inl ⟨hf, hp, rfl⟩)
  · exact .inr (.inr ⟨hf, hp, rfl⟩)

theorem onEdge_next {u : State} (h : onEdge s (.next u) = .next t) :
    (¬ s.AcceptsEdges ∧ t = s) ∨ (s.AcceptsEdges ∧ t = u) := by
  by_cases ha : s.AcceptsEdges
  · rw [onEdge_accepts ha] at h
    cases h
    exact .inr ⟨ha, rfl⟩
  · rw [onEdge_rejects ha] at h
    cases h
    exact .inl ⟨ha, rfl⟩

theorem boundary_inside (h : s.bitCount ≠ 8#4) : s.boundary = s := if_neg h

theorem boundary_at (h : s.bitCount = 8#4) : s.boundary = s.clearCount.promote.enterCallback := if_pos h

/-- What taking a command does to the port: the held edges before it stay, in order. -/
theorem takeCommand_split {hold : Bool} {p rest : List Command} {c : Command} (h : takeCommand hold p = some (c, rest)) :
    ∃ before after, p = before ++ c :: after ∧ rest = before ++ after ∧
      (∀ e ∈ before, (hold && isEdgeCommand e) = true) ∧ (hold && isEdgeCommand c) = false := by
  induction p generalizing rest with
  | nil => cases h
  | cons d ds ih =>
    unfold takeCommand at h
    split at h
    · rename_i hd
      split at h
      · rename_i e rest' he
        obtain ⟨rfl, rfl⟩ : e = c ∧ d :: rest' = rest := by simpa using h
        obtain ⟨before, after, rfl, rfl, hb, hc⟩ := ih he
        exact ⟨d :: before, after, rfl, rfl, by simpa using ⟨by simpa using hd, by simpa using hb⟩, hc⟩
      · cases h
    · rename_i hd
      obtain ⟨rfl, rfl⟩ : d = c ∧ ds = rest := by simpa using h
      exact ⟨[], ds, rfl, rfl, by simp, by simpa using hd⟩

/-- The held commands are passed over, whatever their number, and stay in order before the rest. -/
theorem takeCommand_past {hold : Bool} {held rest : List Command} {c : Command}
    (hh : ∀ e ∈ held, (hold && isEdgeCommand e) = true) (hc : (hold && isEdgeCommand c) = false) :
    takeCommand hold (held ++ c :: rest) = some (c, held ++ rest) := by
  induction held with
  | nil => simp [takeCommand, hc]
  | cons d ds ih =>
    have hd := hh d (by simp)
    simp [takeCommand, hd, ih (fun e he => hh e (by simp [he]))]

/-- With nothing but held commands the block takes none. -/
theorem takeCommand_none {hold : Bool} {held : List Command} (hh : ∀ e ∈ held, (hold && isEdgeCommand e) = true) :
    takeCommand hold held = none := by
  induction held with
  | nil => rfl
  | cons d ds ih =>
    have hd := hh d (by simp)
    simp [takeCommand, hd, ih (fun e he => hh e (by simp [he]))]

theorem isEdgeCommand_ok {c : Command} {i : Instr} (h : decode c = .ok i) : isEdgeCommand c = isEdge i := by
  simp [isEdgeCommand, h]

theorem isEdgeCommand_error {c : Command} {e : DecodeError} (h : decode c = .error e) : isEdgeCommand c = false := by
  simp [isEdgeCommand, h]

/-- Where EDGEs are held: in CALLBACK, with the handler registered. -/
theorem holdsEdges_callback (hp : s.phase = .callback) (hq : s.irqOk = true) : s.holdsEdges = true := by
  simp [State.holdsEdges, hp, hq]

theorem holdsEdges_elsewhere (hp : s.phase ≠ .callback) : s.holdsEdges = false := by simp [State.holdsEdges, hp]

/-- The commands that may stand before the one taken are held ones. -/
theorem held_of_holdsBefore {held : List Command} (h : s.HoldsBefore held) :
    ∀ e ∈ held, (s.holdsEdges && isEdgeCommand e) = true := by
  rcases h with rfl | ⟨hp, hq, he⟩
  · simp
  · intro e hm
    obtain ⟨b, n, h | h⟩ := he e hm <;> simp [holdsEdges_callback hp hq, isEdgeCommand_ok h, isEdge]

theorem takeCommand_free (c : Command) (cs : List Command) : takeCommand false (c :: cs) = some (c, cs) := by
  simp [takeCommand]

end Sys2Proof.Machine
end

