-- ==== Sys2Proof/Laws/PerInstr.lean ====
section
/-! SUPPORT. What holds of every instruction as syntax, one lemma per constructor. -/

namespace Sys2Proof.Laws

/-- The word the encoder writes is legal (R51), with every operand at every value. -/
def EncodesLegally.Statement (i : Instr) : Prop := legal (encodeWord i) = true

theorem EncodesLegally.edgeRise (s : Bool) (t : Time) : EncodesLegally.Statement (.edgeRise s t) := by
  simp [EncodesLegally.Statement, encodeWord, legal]

theorem EncodesLegally.edgeFall (s : Bool) (t : Time) : EncodesLegally.Statement (.edgeFall s t) := by
  simp [EncodesLegally.Statement, encodeWord, legal]

theorem EncodesLegally.submit (v : Byte) : EncodesLegally.Statement (.submit v) := by
  simp [EncodesLegally.Statement, encodeWord, legal]

theorem EncodesLegally.setIdleByte (v : Byte) : EncodesLegally.Statement (.setIdleByte v) := by
  simp [EncodesLegally.Statement, encodeWord, legal]

theorem EncodesLegally.setTimeout (t : Micros) : EncodesLegally.Statement (.setTimeout t) := by
  simp [EncodesLegally.Statement, encodeWord, legal]

theorem EncodesLegally.setClockRole (r : Tag) : EncodesLegally.Statement (.setClockRole r) := by
  simp [EncodesLegally.Statement, encodeWord, legal]

theorem EncodesLegally.setSpeed (p : Tag) : EncodesLegally.Statement (.setSpeed p) := by
  simp [EncodesLegally.Statement, encodeWord, legal]

theorem EncodesLegally.alloc (r : Tag) (c : Ctx) (a q : Bool) : EncodesLegally.Statement (.alloc r c a q) := by
  simp [EncodesLegally.Statement, encodeWord, legal]

theorem EncodesLegally.free : EncodesLegally.Statement .free := by
  simp [EncodesLegally.Statement, encodeWord, legal]

theorem EncodesLegally.cbRet : EncodesLegally.Statement .cbRet := by
  simp [EncodesLegally.Statement, encodeWord, legal]

end Sys2Proof.Laws
end

