-- ==== Sys2Proof/Laws/Step.lean ====
section
/-! SUPPORT. What a command can do and what a step can do, said once: every invariant and frame follows from
`exec_cases` and `step_cases` without unfolding a meaning. -/

namespace Sys2Proof.Machine

variable {s t : State}

/-- The effect of a command that is executed: when it is, and the state it leaves. -/
def Effect (i : Instr) (s t : State) : Prop :=
  match i with
  | .edgeRise b now => s.AcceptsEdges ∧ t = ((s.resync now).shiftIn b).boundary
  | .edgeFall _ _ => s.AcceptsEdges ∧ t = s.driveBit
  | .submit v => s.fault = .none ∧ s.phase ≠ .unalloc ∧ t = if s.bitCount = 0#4 then s.loadByte v else s.queueByte v
  | .setIdleByte v => s.fault = .none ∧ s.phase ≠ .unalloc ∧ t = { s with idleByte := v }
  | .setTimeout v => s.fault = .none ∧ s.phase ≠ .unalloc ∧ t = { s with timeoutUs := v }
  | .setClockRole v => s.fault = .none ∧ s.phase ≠ .unalloc ∧ t = { s.clearCount with clockRole := v }
  | .setSpeed v => s.fault = .none ∧ s.phase ≠ .unalloc ∧ t = { s with speed := v }
  | .alloc r x a q => s.fault = .none ∧ s.phase = .unalloc ∧ a = true ∧ t = s.allocate r x q
  | .free => s.fault = .none ∧ s.phase = .ready ∧ t = s.release
  | .cbRet => s.fault = .none ∧ s.phase = .callback ∧ t = s.leaveCallback

theorem execAlloc_next {r : Tag} {x : Ctx} {a q : Bool} (h : execAlloc r x a q s = .next t) :
    t = s ∨ (s.fault = .none ∧ ∃ c, c ≠ .none ∧ t = s.withFault c) ∨ Effect (.alloc r x a q) s t := by
  rcases whenClear_next h with ⟨_, rfl⟩ | ⟨hf, h⟩
  · exact .inl rfl
  · cases hp : s.phase <;> simp only [hp] at h
    · cases a <;> cases h
      · exact .inr (.inl ⟨hf, _, by simp, rfl⟩)
      · exact .inr (.inr ⟨hf, hp, rfl, rfl⟩)
    · cases h
      exact .inr (.inl ⟨hf, _, by simp, rfl⟩)
    · cases h
      exact .inr (.inl ⟨hf, _, by simp, rfl⟩)

theorem execFree_next (h : execFree s = .next t) :
    t = s ∨ (s.fault = .none ∧ ∃ c, c ≠ .none ∧ t = s.withFault c) ∨ Effect .free s t := by
  rcases whenClear_next h with ⟨_, rfl⟩ | ⟨hf, h⟩
  · exact .inl rfl
  · cases hp : s.phase <;> simp only [hp] at h <;> cases h
    · exact .inr (.inl ⟨hf, _, by simp, rfl⟩)
    · exact .inr (.inr ⟨hf, hp, rfl⟩)
    · exact .inr (.inl ⟨hf, _, by simp, rfl⟩)

theorem execCbRet_next (h : execCbRet s = .next t) :
    t = s ∨ (s.fault = .none ∧ ∃ c, c ≠ .none ∧ t = s.withFault c) ∨ Effect .cbRet s t := by
  rcases whenClear_next h with ⟨_, rfl⟩ | ⟨hf, h⟩
  · exact .inl rfl
  · cases hp : s.phase <;> simp only [hp] at h <;> cases h
    · exact .inr (.inl ⟨hf, _, by simp, rfl⟩)
    · exact .inr (.inl ⟨hf, _, by simp, rfl⟩)
    · exact .inr (.inr ⟨hf, hp, rfl⟩)

/-- A host command behind `onHandle`. -/
theorem onHandle_cases_next {u : State} (h : onHandle s (.next u) = .next t) :
    t = s ∨ (s.fault = .none ∧ ∃ c, c ≠ .none ∧ t = s.withFault c) ∨ (s.fault = .none ∧ s.phase ≠ .unalloc ∧ t = u) := by
  rcases onHandle_next h with ⟨_, rfl⟩ | ⟨hf, _, rfl⟩ | h
  · exact .inl rfl
  · exact .inr (.inl ⟨hf, _, by simp, rfl⟩)
  · exact .inr (.inr h)

/-- An EDGE command behind `onEdge`. -/
theorem onEdge_cases_next {u : State} (h : onEdge s (.next u) = .next t) :
    t = s ∨ (s.fault = .none ∧ ∃ c, c ≠ .none ∧ t = s.withFault c) ∨ (s.AcceptsEdges ∧ t = u) := by
  rcases onEdge_next h with ⟨_, rfl⟩ | h
  · exact .inl rfl
  · exact .inr (.inr h)

/-- What a command can do: nothing; raise a fault and change nothing else; or its effect. -/
theorem exec_cases {i : Instr} (h : exec i s = .next t) :
    t = s ∨ (s.fault = .none ∧ ∃ c, c ≠ .none ∧ t = s.withFault c) ∨ Effect i s t := by
  cases i with
  | edgeRise b now => exact onEdge_cases_next h
  | edgeFall b now => exact onEdge_cases_next h
  | submit v => exact onHandle_cases_next h
  | setIdleByte v => exact onHandle_cases_next h
  | setTimeout v => exact onHandle_cases_next h
  | setClockRole v => exact onHandle_cases_next h
  | setSpeed v => exact onHandle_cases_next h
  | alloc r x a q => exact execAlloc_next h
  | free => exact execFree_next h
  | cbRet => exact execCbRet_next h

/-- What a step can do: nothing; run the instruction of the command taken; or fault on an illegal one. -/
theorem step_cases (h : step s = .next t) :
    t = s ∨ (s.fault = .none ∧ ∃ c rest, takeCommand s.holdsEdges s.port = some (c, rest) ∧
      ((∃ i, decode c = .ok i ∧ exec i (s.withPort rest) = .next t) ∨
       (∃ e, decode c = .error e ∧ t = (s.withPort rest).withFault .illegalCommand))) := by
  rcases whenClear_next h with ⟨_, rfl⟩ | ⟨hf, h⟩
  · exact .inl rfl
  · split at h
    · cases h
      exact .inl rfl
    · rename_i c rest ht
      split at h
      · rename_i i hi
        exact .inr ⟨hf, c, rest, ht, .inl ⟨i, hi, h⟩⟩
      · rename_i e he
        cases h
        exact .inr ⟨hf, c, rest, ht, .inr ⟨e, he, rfl⟩⟩

end Sys2Proof.Machine
end

