-- ==== Sys2Proof/Machine/Assembler.lean ====
section
/-! DEFINITION. The text of the assembler: one command a line, `;` starts a comment, numbers decimal or `0x` hexadecimal
(30_encoding rules R54, R55). The meaning of a line is `assemble`, in Decode.lean; no meaning of the machine depends on
this file (D25). What the rule leaves open of the text: notes/assumptions/19.md. -/

namespace Sys2Proof

def isBlank (c : Char) : Bool := c == ' ' || c == '\t'

def trimBlanks (cs : List Char) : List Char := ((cs.dropWhile isBlank).reverse.dropWhile isBlank).reverse

/-- The line before its comment. -/
def stripComment (cs : List Char) : List Char := cs.takeWhile (fun c => c != ';')

/-- The pieces of a text between the commas. -/
def splitCommas : List Char → List (List Char)
  | [] => [[]]
  | c :: cs =>
    match splitCommas cs with
    | piece :: pieces => if c == ',' then [] :: piece :: pieces else (c :: piece) :: pieces
    | [] => [[c]]

def operandsOf (cs : List Char) : List (List Char) :=
  if (trimBlanks cs).isEmpty then [] else (splitCommas cs).map trimBlanks

def digitOf (c : Char) : Option Nat :=
  let n := c.toNat
  if 48 ≤ n ∧ n ≤ 57 then some (n - 48)
  else if 97 ≤ n ∧ n ≤ 102 then some (n - 87)
  else if 65 ≤ n ∧ n ≤ 70 then some (n - 55)
  else none

def digitsOf (base : Nat) : List Char → Nat → Option Nat
  | [], acc => some acc
  | c :: cs, acc =>
    match digitOf c with
    | some d => if d < base then digitsOf base cs (acc * base + d) else none
    | none => none

/-- "Numbers are decimal, or hexadecimal with the `0x` prefix" (R54). -/
def numberOf : List Char → Option Nat
  | '0' :: 'x' :: c :: cs => digitsOf 16 (c :: cs) 0
  | c :: cs => digitsOf 10 (c :: cs) 0
  | [] => none

/-- A time, written `@t` (R54). -/
def timeOf : List Char → Option Nat
  | '@' :: cs => numberOf cs
  | _ => none

/-- What follows `key=`. -/
def keyedBy : List Char → List Char → Option (List Char)
  | [], '=' :: cs => some cs
  | k :: ks, c :: cs => if k == c then keyedBy ks cs else none
  | _, _ => none

def keyedNumber (key cs : List Char) : Option Nat := (keyedBy key cs).bind numberOf

/-- `ctx=C`: the spelling of a context is the application's own, so its value comes from `ctxOf` (R53, D27). -/
def keyedCtx (ctxOf : List Char → Option Ctx) (cs : List Char) : Option Ctx :=
  (keyedBy ['c', 't', 'x'] cs).bind ctxOf

def keyedOk (cs : List Char) : Option Nat := keyedNumber ['o', 'k'] cs

def keyedIrq (cs : List Char) : Option Nat := keyedNumber ['i', 'r', 'q'] cs

/-- `ALLOC r, ctx=C [, ok=a] [, irq=b]` (R54). -/
def parseAlloc (ctxOf : List Char → Option Ctx) : List (List Char) → Option AsmLine
  | [r, c] => do
    let r ← numberOf r
    let c ← keyedCtx ctxOf c
    pure (.alloc r c none none)
  | [r, c, x] => do
    let r ← numberOf r
    let c ← keyedCtx ctxOf c
    match keyedOk x with
    | some a => pure (.alloc r c (some a) none)
    | none =>
      let b ← keyedIrq x
      pure (.alloc r c none (some b))
  | [r, c, a, b] => do
    let r ← numberOf r
    let c ← keyedCtx ctxOf c
    let a ← keyedOk a
    let b ← keyedIrq b
    pure (.alloc r c (some a) (some b))
  | _ => none

/-- The forms of R54 and R55, by mnemonic and operands. -/
def parseForm (ctxOf : List Char → Option Ctx) (mnemonic : String) (ops : List (List Char)) : Option AsmLine :=
  match mnemonic, ops with
  | "EDGE_RISE", [s, t] => do return .edgeRise (← numberOf s) (← timeOf t)
  | "EDGE_FALL", [] => some .edgeFall
  | "EDGE", [l, s, t] => do return .edge (← numberOf l) (← numberOf s) (← timeOf t)
  | "SUBMIT", [v] => (numberOf v).map .submit
  | "SET_IDLE_BYTE", [v] => (numberOf v).map .setIdleByte
  | "SET_TIMEOUT", [t] => (numberOf t).map .setTimeout
  | "SET_CLOCK_ROLE", [r] => (numberOf r).map .setClockRole
  | "SET_SPEED", [p] => (numberOf p).map .setSpeed
  | "ALLOC", ops => parseAlloc ctxOf ops
  | "FREE", [] => some .free
  | "CB_RET", [] => some .cbRet
  | "BIT", [s, t] => do return .bit (← numberOf s) (← timeOf t)
  | "BYTE", [v, t, d] => do return .byte (← numberOf v) (← timeOf t) (← numberOf d)
  | "CB_SEND", [v] => (numberOf v).map .cbSend
  | _, _ => none

/-- The commands of one line of text: none for an empty or comment line, and no answer where the line has no form of R54
or R55 or an operand out of range. R54 has the lines of a callback's commands indented under their EDGE_RISE, and does not say
what a line indented otherwise does: here the blanks before a line have no meaning, and any indentation is accepted.
DESIGN CHOICE: notes/assumptions/19.md. -/
def assembleText (ctxOf : List Char → Option Ctx) (text : List Char) : Option (List Command) :=
  let body := trimBlanks (stripComment text)
  if body.isEmpty then some []
  else
    (parseForm ctxOf (String.ofList (body.takeWhile (fun c => !isBlank c)))
      (operandsOf (body.dropWhile (fun c => !isBlank c)))).bind assemble

/-- The commands of a source text, line after line. -/
def assembleLines (ctxOf : List Char → Option Ctx) : List (List Char) → Option (List Command)
  | [] => some []
  | l :: ls => do return (← assembleText ctxOf l) ++ (← assembleLines ctxOf ls)

end Sys2Proof
end

