-- ==== Sys2Proof/Tests/Slice0.lean ====
section
/-! SUPPORT. Named tests: words written out from the spec's encodings, the ill-formed lines and words each check refuses,
vectors of 95_test_vectors.md, and a witness for the hypotheses of each statement. -/

namespace Sys2Proof.Tests

open Sys2Proof Sys2Proof.Machine

/-! ### Decoding: one word of each constructor, written out from 30_encoding R47 to R50 and R54 -/

def side : Side := { now := 80#64, ctx := .initial, allocOk := true, irqOk := false }

/-- The instruction a word decodes to. -/
def decoded (w : CmdWord) : Option Instr :=
  match decode ⟨w, side⟩ with
  | .ok i => some i
  | .error _ => none

/-- Why a word is refused. -/
def refusedBy (w : CmdWord) : Option DecodeError :=
  match decode ⟨w, side⟩ with
  | .ok _ => none
  | .error e => some e

theorem test_decode_edgeRise : decoded 0x0100000000000003#64 = some (.edgeRise true 80#64) := by decide
theorem test_decode_edgeRise_zero : decoded 0x0100000000000001#64 = some (.edgeRise false 80#64) := by decide
theorem test_decode_edgeFall : decoded 0x0100000000000000#64 = some (.edgeFall false 80#64) := by decide
theorem test_decode_edgeFall_sample : decoded 0x0100000000000002#64 = some (.edgeFall true 80#64) := by decide
theorem test_decode_submit : decoded 0x1000000000000081#64 = some (.submit 0x81#8) := by decide
theorem test_decode_setIdleByte : decoded 0x1100000000000042#64 = some (.setIdleByte 0x42#8) := by decide
theorem test_decode_setTimeout : decoded 0x12000000FFFFFFFF#64 = some (.setTimeout 0xFFFFFFFF#32) := by decide
theorem test_decode_setClockRole : decoded 0x1300000000000001#64 = some (.setClockRole 0x01#8) := by decide
theorem test_decode_setSpeed : decoded 0x1400000000000002#64 = some (.setSpeed 0x02#8) := by decide
/-- At every context, so that one dropped or replaced would show. -/
theorem test_decode_alloc (c : Ctx) :
    decode ⟨0x2000000000000003#64, { side with ctx := c }⟩ = .ok (.alloc 0x03#8 c true false) := by
  rw [decode_of_fields (op := 0x20#8) (p := 3#32) _ (by decide) (by decide) (by decide)]
  simp [decodeOp, decodeByte, byteMbzOf, imm8Of, side]
theorem test_decode_free : decoded 0x2100000000000000#64 = some .free := by decide
theorem test_decode_cbRet : decoded 0x3000000000000000#64 = some .cbRet := by decide

/-- The encoder against the words of R54, not against the decoder. -/
theorem test_encode_words :
    [Instr.edgeRise true 0#64, .edgeFall false 0#64, .submit 0x3C#8, .setTimeout 1000#32, .alloc 0x07#8 .initial true true,
      .cbRet].map encodeWord =
    [0x0100000000000003#64, 0x0100000000000000#64, 0x100000000000003C#64, 0x12000000000003E8#64, 0x2000000000000007#64,
      0x3000000000000000#64] := by decide

theorem test_table_word : decodeTableWord 64 0x1400000000000002 = some (.setSpeed 0x02#8) := by decide
theorem test_table_word_too_wide : decodeTableWord 72 0x1400000000000002 = none := by decide
theorem test_table_word_too_narrow : decodeTableWord 57 0x0100000000000003 = none := by decide

/-! ### Ill-formed words (R51; vectors EN-1 to EN-9) and lines (R54): each check refuses one -/

theorem test_illegal_opcode_00 : refusedBy 0x0000000000000000#64 = some .reservedOpcode := by decide
theorem test_illegal_opcode_31 : refusedBy 0x3100000000000000#64 = some .reservedOpcode := by decide
theorem test_illegal_rsv : refusedBy 0x1000000100000000#64 = some .reservedBits := by decide
theorem test_illegal_submit_bit8 : refusedBy 0x1000000000000100#64 = some .payloadBits := by decide
theorem test_illegal_edge_bit2 : refusedBy 0x0100000000000004#64 = some .payloadBits := by decide
theorem test_illegal_free_bit0 : refusedBy 0x2100000000000001#64 = some .payloadBits := by decide
theorem test_illegal_cbRet_bit31 : refusedBy 0x3000000080000000#64 = some .payloadBits := by decide
theorem test_legal_agrees : [0x0000000000000000#64, 0x1000000100000000#64, 0x0100000000000004#64, 0x2100000000000001#64,
    0x0100000000000002#64, 0x12000000FFFFFFFF#64].map legal = [false, false, false, false, true, true] := by decide
theorem test_wrong_width : decodeBytes [0x21#8, 0#8, 0#8, 0#8] side = .error .wrongWidth := by rfl
theorem test_transport : toBytes 0x0123456789ABCDEF#64 =
    [0x01#8, 0x23#8, 0x45#8, 0x67#8, 0x89#8, 0xAB#8, 0xCD#8, 0xEF#8] := by decide

theorem test_wf_sample : (AsmLine.edgeRise 2 0).wf = false := by decide
theorem test_wf_time : (AsmLine.edgeRise 1 (2 ^ 64)).wf = false := by decide
theorem test_wf_level : (AsmLine.edge 2 0 0).wf = false := by decide
theorem test_wf_submit : (AsmLine.submit 256).wf = false := by decide
theorem test_wf_idle : (AsmLine.setIdleByte 256).wf = false := by decide
theorem test_wf_timeout : (AsmLine.setTimeout (2 ^ 32)).wf = false := by decide
theorem test_wf_role : (AsmLine.setClockRole 256).wf = false := by decide
theorem test_wf_speed : (AsmLine.setSpeed 256).wf = false := by decide
theorem test_wf_alloc_role : (AsmLine.alloc 256 .initial none none).wf = false := by decide
theorem test_wf_alloc_ok : (AsmLine.alloc 0 .initial (some 2) none).wf = false := by decide
theorem test_wf_alloc_irq : (AsmLine.alloc 0 .initial none (some 2)).wf = false := by decide
theorem test_wf_bit : (AsmLine.bit 2 0).wf = false := by decide
theorem test_wf_byte : (AsmLine.byte 256 0 0).wf = false := by decide
theorem test_wf_byte_time : (AsmLine.byte 0 (2 ^ 64 - 7) 1).wf = false := by decide
theorem test_wf_cbSend : (AsmLine.cbSend 256).wf = false := by decide
theorem test_wf_accepts : [AsmLine.submit 255, .setTimeout (2 ^ 32 - 1), .byte 255 (2 ^ 64 - 8) 1, .edgeFall].all
    AsmLine.wf = true := by decide

/-! ### The assembler (R54, R55), from the listings of P1 and P5 -/

/-- The context `C` of the listings is spelled `C`. -/
def ctxOf (c : Ctx) (cs : List Char) : Option Ctx := if cs = ['C'] then some c else none

def textWords (t : String) : Option (List CmdWord) := (assembleText (ctxOf .initial) t.toList).map (·.map (·.word))

theorem test_asm_comment : textWords "    SUBMIT 0x3C      ; the next byte" = some [0x100000000000003C#64] := by decide
theorem test_asm_rise : assembleText (ctxOf .initial) "EDGE_RISE 1, @1270".toList =
    some [⟨0x0100000000000003#64, { defaultSide with now := 1270#64 }⟩] := by decide
theorem test_asm_alloc (c : Ctx) : assembleText (ctxOf c) "ALLOC 0x07, ctx=C, irq=0".toList =
    some [⟨0x2000000000000007#64, { defaultSide with ctx := c, irqOk := false }⟩] := by rfl
theorem test_asm_send : textWords "CB_SEND 0x3C" = some [0x100000000000003C#64, 0x3000000000000000#64] := by decide
theorem test_asm_blank : textWords "  ; a comment" = some [] := by decide
theorem test_asm_range : textWords "SUBMIT 256" = none := by decide
theorem test_asm_byte : (AsmLine.byte 0x81 10 10).expand.filter (fun i => decide (i ≠ asmFall)) =
    [.edgeRise true 10#64, .edgeRise false 20#64, .edgeRise false 30#64, .edgeRise false 40#64, .edgeRise false 50#64,
     .edgeRise false 60#64, .edgeRise false 70#64, .edgeRise true 80#64] := by decide

/-! ### Vectors of 95_test_vectors.md -/

/-- State B (section 0), with `Ctx.initial` for the context C. A test about the context itself takes any. -/
def base : State :=
  { State.reset with
    phase := .ready, irqOk := true, outActive := 0xFF#8, idleByte := 0xFF#8, timeoutUs := 200#32 }

/-- The next state, or the reset state where there is none (no test below meets that case: `exec` always goes on). -/
def after (r : Result) : State :=
  match r with
  | .next t => t
  | .fault _ => State.reset
  | .refused _ => State.reset

theorem test_LC1 (c : Ctx) : after (exec (.alloc 0x00#8 c true true) State.reset) = { base with cbCtx := c } := by rfl
theorem test_LC5 : after (exec (.alloc 0x00#8 .initial false true) base) = { base with fault := .alreadyAllocated } := by decide
theorem test_SE3 : after (exec (.edgeRise false 301#64) { base with bitCount := 2#4, inAccum := 0x03#8, lastEdgeTime := 100#64 }) =
    { base with inAccum := 0x00#8, bitCount := 1#4, lastEdgeTime := 301#64 } := by decide
theorem test_SE9 : after (exec (.edgeRise true 80#64) { base with
      bitCount := 7#4, inAccum := 0x7F#8, lastEdgeTime := 70#64, outActive := 0#8, outPending := 0x12#8,
      outPendingValid := true }) =
    { base with
      inAccum := 0xFF#8, outActive := 0x12#8, outPending := 0x12#8, lastEdgeTime := 80#64, phase := .callback,
      history := [.callback 0xFF#8 .initial] } := by decide
/-- R70: the context the notification carries is the stored one, whichever it is. -/
theorem test_callback_context (c : Ctx) :
    ({ base with inAccum := 0xAA#8, cbCtx := c } : State).enterCallback.history = [.callback 0xAA#8 c] := by rfl
theorem test_SE18 : after (exec (.edgeFall false 0#64) { base with outActive := 0x80#8, params := { base.params with outFill := true } }) =
    { base with outActive := 0x01#8, params := { base.params with outFill := true }, history := [.drive true] } := by decide
theorem test_SE20 : after (exec (.edgeFall true 999#64) { base with
      bitCount := 3#4, inAccum := 0x05#8, lastEdgeTime := 30#64, outActive := 0xA0#8, soutQ := false }) =
    { base with bitCount := 3#4, inAccum := 0x05#8, lastEdgeTime := 30#64, outActive := 0x40#8, history := [.drive true] } := by decide
theorem test_SE16 : after (exec (.edgeFall false 0#64) { base with outActive := 0x3C#8 }) =
    { base with outActive := 0x78#8, soutQ := false, history := [.drive false] } := by decide
theorem test_TQ1 : after (exec (.submit 0x81#8) { base with outPendingValid := true }) =
    { base with outActive := 0x81#8 } := by decide
theorem test_TQ2 : after (exec (.submit 0x5A#8) { base with bitCount := 3#4 }) =
    { base with bitCount := 3#4, outPending := 0x5A#8, outPendingValid := true } := by decide
theorem test_TQ9 : after (exec (.setIdleByte 0x42#8) base) = { base with idleByte := 0x42#8 } := by decide
theorem test_CF1 : after (exec (.setClockRole 0x01#8) { base with bitCount := 5#4, inAccum := 0x15#8 }) =
    { base with inAccum := 0x15#8, clockRole := 0x01#8 } := by decide
theorem test_CF5 : after (exec (.setSpeed 0x02#8) base) = { base with speed := 0x02#8 } := by decide
theorem test_CF6 : after (exec (.setTimeout 100#32) base) = { base with timeoutUs := 100#32 } := by decide
theorem test_CF10 : after (exec (.setSpeed 0x02#8) State.reset) = { State.reset with fault := .notAllocated } := by decide
theorem test_LC6 : (let t := after (exec .free { base with bitCount := 3#4, outPendingValid := true, soutQ := false })
    (t.phase, t.irqOk, t.soutQ, t.history)) = (.unalloc, false, true, []) := by decide
theorem test_CB4 : after (exec .free { base with phase := .callback }) =
    { base with phase := .callback, fault := .lifecycleInCallback } := by decide
theorem test_CB1 : after (exec .cbRet { base with phase := .callback }) = base := by decide
theorem test_CB2 : after (exec .cbRet base) = { base with fault := .returnOutsideCallback } := by decide

/-! ### The step -/

def rise : Command := ⟨0x0100000000000003#64, { defaultSide with now := 90#64 }⟩
def ret : Command := ⟨0x3000000000000000#64, defaultSide⟩
def bad : Command := ⟨0x1000000000000100#64, defaultSide⟩

/-- SE-14 and SE-15: the edge issued in CALLBACK waits for the CB_RET behind it. -/
theorem test_SE14 : after (step { base with phase := .callback, port := [rise, ret] }) = { base with port := [rise] } := by decide
theorem test_SE15 : after (step { base with inAccum := 0xAA#8, lastEdgeTime := 80#64, port := [rise] }) =
    { base with inAccum := 0x55#8, bitCount := 1#4, lastEdgeTime := 90#64 } := by decide
/-- EN-12 and EN-11: an illegal word faults in CALLBACK, and a faulted block accepts nothing. -/
theorem test_EN12 : after (step { base with phase := .callback, outActive := 0x5A#8, port := [rise, bad] }) =
    { base with phase := .callback, outActive := 0x5A#8, fault := .illegalCommand, port := [rise] } := by decide
theorem test_EN11 : after (step { base with fault := .illegalCommand, port := [ret] }) =
    { base with fault := .illegalCommand, port := [ret] } := by decide
theorem test_withFetchWord : after (step (State.reset.withFetchWord 64 0x2000000000000003)) =
    after (exec (.alloc 0x03#8 .initial true true) State.reset) := by decide
theorem test_withFetchWord_too_wide : State.reset.withFetchWord 72 0x2000000000000003 = State.reset := by decide

/-! ### Witnesses: concrete states and operands that meet the hypotheses of each statement, clause by clause -/

/-- State B in the CALLBACK phase, where the invariant holds. -/
def inCallback : State := { base with phase := .callback, port := [rise, ret] }

theorem witness_EncodeOfDecode : decode ⟨0x0100000000000002#64, side⟩ = .ok (.edgeFall true 80#64) := by decide

/-- The command `rise` is a legal EDGE, as a held one is. -/
theorem rise_held : ∀ e ∈ [rise], ∃ b n, decode e = .ok (.edgeRise b n) ∨ decode e = .ok (.edgeFall b n) := by
  intro e he
  obtain rfl : e = rise := by simpa using he
  exact ⟨true, 90#64, .inl (by decide)⟩

/-- An illegal word behind a held EDGE (EN-12). -/
def badInCallback : State := { inCallback with port := [rise, bad] }

/-- First in the port in READY and behind a held EDGE in CALLBACK; a legal word. -/
theorem witness_IllegalWordsFaultInEveryPhase :
    ({ base with port := [bad] } : State).fault = .none ∧ base.HoldsBefore [] ∧
    badInCallback.fault = .none ∧ badInCallback.HoldsBefore [rise] ∧ badInCallback.port = [rise] ++ bad :: [] ∧
    ¬ LegalBits bad.word ∧ LegalBits ret.word ∧ ∃ t, exec .cbRet base = .next t :=
  ⟨by decide, .inl rfl, by decide, .inr ⟨by decide, by decide, rise_held⟩, by decide, by decide, by decide, _, rfl⟩

theorem witness_PayloadLayouts :
    ((0x0100000000000003#64 : CmdWord).extractLsb' 32 24 = 0#24 ∧
      (0x0100000000000003#64 : CmdWord).extractLsb' 56 8 = 0x01#8 ∧ (0x0100000000000003#64 : CmdWord).extractLsb' 2 30 = 0#30) ∧
    (0x0100000000000004#64 : CmdWord).extractLsb' 2 30 ≠ 0#30 ∧
    (0x12000000FFFFFFFF#64 : CmdWord).extractLsb' 56 8 = 0x12#8 ∧
    ((0x20000000000000FF#64 : CmdWord).extractLsb' 56 8 = 0x20#8 ∧ (0x20000000000000FF#64 : CmdWord).extractLsb' 8 24 = 0#24) ∧
    (0x1000000000000100#64 : CmdWord).extractLsb' 8 24 ≠ 0#24 ∧
    ((0x2100000000000000#64 : CmdWord).extractLsb' 56 8 = 0x21#8 ∧ (0x2100000000000000#64 : CmdWord).extractLsb' 0 32 = 0#32) ∧
    (0x3000000080000000#64 : CmdWord).extractLsb' 0 32 ≠ 0#32 := by decide

theorem witness_TransportIsMostSignificantFirst :
    63 ≠ 64 ∧ 65 ≠ 64 ∧ ([0x21#8] : List Byte).length ≠ 8 ∧ ([0x21#8, 0#8, 0#8, 0#8, 0#8, 0#8, 0#8, 0#8] : List Byte) = toBytes 0x2100000000000000#64 := by
  decide

theorem witness_AssemblerWords :
    255 < 256 ∧ 256 ≤ 256 ∧ 2 ^ 32 - 1 < 2 ^ 32 ∧ 2 ^ 32 ≤ 2 ^ 32 ∧ 1 < 2 ∧ 2 ≤ 2 ∧ 2 ^ 64 - 1 < 2 ^ 64 ∧ 2 ^ 64 ≤ 2 ^ 64 ∧
    some 0 ∈ [none, some 0, some 1] ∧ ∃ a, 2 ≤ a ∧ (some 2 = some a ∨ none = some a) :=
  ⟨by decide, by decide, by decide, by decide, by decide, by decide, by decide, by decide, by decide, 2, by decide, .inl rfl⟩

theorem witness_StepRunsTheDecodedCommand :
    ({ base with port := [rise] } : State).fault = .none ∧ decode rise = .ok (.edgeRise true 90#64) ∧
    isEdge (.edgeRise true 90#64) = true ∧ base.phase ≠ .callback ∧
    ({ base with phase := .callback, port := [ret] } : State).fault = .none ∧ decode ret = .ok .cbRet ∧ isEdge .cbRet = false := by
  decide

/-- Only a held EDGE waits; the CB_RET behind it is taken; the illegal word behind it is taken. -/
theorem witness_EdgesAreHeldDuringTheCallback :
    (∀ e ∈ [rise], ∃ b n, decode e = .ok (.edgeRise b n) ∨ decode e = .ok (.edgeFall b n)) ∧
    inCallback.Inv ∧ inCallback.fault = .none ∧ inCallback.phase = .callback ∧ inCallback.port = [rise] ++ ret :: [] ∧
    decode ret = .ok .cbRet ∧ isEdge .cbRet = false ∧ ({ inCallback with port := [rise] } : State).Inv ∧
    badInCallback.Inv ∧ badInCallback.port = [rise] ++ bad :: [] ∧ decode bad = .error .payloadBits :=
  ⟨rise_held, by decide, by decide, by decide, by decide, by decide, by decide, by decide, by decide, by decide, by decide⟩

theorem witness_IdleBlockKeepsItsState : base.port = [] := by decide

theorem witness_FaultsAreStickyAndPrecise :
    ({ base with fault := .illegalCommand } : State).fault ≠ .none ∧
    ∃ t, exec .cbRet base = .next t ∧ t.fault ≠ base.fault := ⟨by decide, _, rfl, by decide⟩

/-- Each entry; at the step, an edge ignored at power-on, one held in CALLBACK, and an illegal word behind a held one. -/
theorem witness_AcceptanceTable :
    ({ State.reset with port := [rise] } : State).fault = .none ∧ decode rise = .ok (.edgeRise true 90#64) ∧
    verdict (.edgeRise true 90#64) { State.reset with port := [rise] } = .ignore ∧
    verdict (.edgeRise true 90#64) inCallback = .hold ∧ inCallback.Inv ∧ inCallback.port = rise :: [ret] ∧
    badInCallback.HoldsBefore [rise] ∧ badInCallback.port = [rise] ++ bad :: [] ∧ base.fault = .none ∧ verdict (.edgeFall false 0#64) base = .execute ∧
    verdict (.edgeFall false 0#64) State.reset = .ignore ∧ verdict (.edgeFall false 0#64) inCallback = .hold ∧
    verdict .free inCallback = .fault .lifecycleInCallback ∧ decode bad = .error .payloadBits :=
  ⟨by decide, by decide, by decide, by decide, by decide, by decide, .inr ⟨by decide, by decide, rise_held⟩, by decide,
    by decide, by decide, by decide, by decide, by decide, by decide⟩

theorem witness_FaultPriority :
    base.fault = .none ∧ base.phase = .ready ∧ inCallback.fault = .none ∧ inCallback.phase = .callback ∧
    State.reset.fault = .none ∧ State.reset.phase = .unalloc ∧ legal bad.word = false ∧ isEdge (.edgeRise true 0#64) = true ∧
    badInCallback.HoldsBefore [rise] ∧ ∃ t, exec (.edgeRise true 0#64) base = .next t := by
  refine ⟨by decide, by decide, by decide, by decide, by decide, by decide, by decide, by decide,
    .inr ⟨by decide, by decide, rise_held⟩, _, rfl⟩

/-- Executed inside a byte, at the byte boundary (`bit_count` = 7) and after a stale gap; ignored; held. -/
theorem witness_EdgeRiseShiftsInABit :
    base.fault = .none ∧ base.phase = .ready ∧ base.irqOk = true ∧
    ¬ base.timeoutUs.toNat < (200#64 - base.lastEdgeTime).toNat ∧ base.timeoutUs.toNat < (201#64 - base.lastEdgeTime).toNat ∧
    (({ base with bitCount := 7#4 } : State).bitCount + 1#4) = 8#4 ∧
    State.reset.phase = .unalloc ∧ ({ base with irqOk := false } : State).irqOk = false ∧ inCallback.phase = .callback := by
  decide

theorem witness_EdgeFallDrivesABit :
    base.fault = .none ∧ base.phase = .ready ∧ base.irqOk = true ∧ State.reset.phase = .unalloc ∧
    ({ base with irqOk := false } : State).irqOk = false ∧ inCallback.phase = .callback := by decide

theorem witness_SubmitWritesActiveOrPending :
    base.fault = .none ∧ base.phase = .ready ∧ base.bitCount = 0#4 ∧ ({ base with bitCount := 7#4 } : State).bitCount ≠ 0#4 ∧
    inCallback.phase = .callback ∧ State.reset.fault = .none ∧ State.reset.phase = .unalloc := by decide

theorem witness_SetIdleByteWritesTheIdleByte :
    base.fault = .none ∧ base.phase = .ready ∧ inCallback.phase = .callback ∧ State.reset.phase = .unalloc := by decide

theorem witness_SetTimeoutWritesTheThreshold :
    base.fault = .none ∧ base.phase = .ready ∧ inCallback.phase = .callback ∧ State.reset.phase = .unalloc := by decide

theorem witness_SetClockRoleDiscardsThePartialByte :
    base.fault = .none ∧ base.phase = .ready ∧ inCallback.phase = .callback ∧ State.reset.phase = .unalloc := by decide

theorem witness_SetSpeedWritesTheTag :
    base.fault = .none ∧ base.phase = .ready ∧ inCallback.phase = .callback ∧ State.reset.phase = .unalloc := by decide

theorem witness_AllocResetsTheBlock :
    State.reset.fault = .none ∧ State.reset.phase = .unalloc ∧ base.phase = .ready ∧ inCallback.phase = .callback := by decide

theorem witness_FreeReleasesTheHandle :
    base.fault = .none ∧ base.phase = .ready ∧ State.reset.phase = .unalloc ∧ inCallback.phase = .callback := by decide

theorem witness_CbRetReturnsFromTheCallback :
    inCallback.fault = .none ∧ inCallback.phase = .callback ∧ State.reset.phase = .unalloc ∧ base.phase = .ready := by decide

theorem witness_EdgesAreIgnoredWithoutAHandler :
    isEdge (.edgeRise true 0#64) = true ∧ State.reset.phase = .unalloc ∧ ({ base with irqOk := false } : State).irqOk = false := by
  decide

theorem witness_DegradedHandleIgnoresTheWire :
    State.reset.fault = .none ∧ State.reset.phase = .unalloc ∧ (∀ i ∈ [Instr.submit 0x42#8], i ≠ .free) ∧
    ∃ t u, exec (.alloc 0x07#8 .initial true false) State.reset = .next t ∧ execAll [.submit 0x42#8] t = .next u ∧ u.fault = .none := by
  refine ⟨by decide, by decide, by decide, _, _, rfl, rfl, by decide⟩

theorem witness_EveryStepKeepsTheInvariant : inCallback.Inv ∧ ∃ t, step inCallback = .next t ∧ t.phase = .ready :=
  ⟨by decide, _, rfl, by decide⟩

theorem witness_RegistersHaveOnlyTheirWriters :
    ∃ t, exec (.setClockRole 0x01#8) { base with bitCount := 5#4 } = .next t ∧ t.clockRole ≠ base.clockRole ∧ t.bitCount ≠ 5#4 :=
  ⟨_, rfl, by decide, by decide⟩

theorem witness_PhaseChanges : ∃ t, exec .cbRet inCallback = .next t ∧ t.phase ≠ inCallback.phase := ⟨_, rfl, by decide⟩

theorem witness_OnlyEdgesEmitEvents :
    (∃ t, exec (.edgeFall false 0#64) base = .next t ∧ t.history ≠ base.history) ∧
    ∃ t, exec (.edgeRise true 5#64) { base with bitCount := 7#4 } = .next t ∧ t.history ≠ base.history :=
  ⟨⟨_, rfl, by decide⟩, _, rfl, by decide⟩

theorem witness_CommandsDoNotSeeThePort : ∃ t, exec (.submit 0x81#8) base = .next t := ⟨_, rfl⟩

theorem witness_CallbackPhaseIsTheCallbackAgents :
    inCallback.Inv ∧ inCallback.phase = .callback ∧
    takeCommand inCallback.holdsEdges inCallback.port = some (ret, [rise]) ∧ decode ret = .ok .cbRet := by decide

theorem witness_TagsHaveNoEffect : ∃ t, exec (.edgeRise true 5#64) base = .next t := ⟨_, rfl⟩

theorem witness_StaleGapDiscardsThePartialByte :
    base.fault = .none ∧ base.phase = .ready ∧ base.irqOk = true ∧ base.timeoutUs.toNat < (201#64 - base.lastEdgeTime).toNat := by
  decide

theorem witness_CallbackSubmitReplacesThePromotedByte :
    ({ base with bitCount := 7#4, outPending := 0x5A#8, outPendingValid := true } : State).AcceptsEdges ∧
    (200#64 - base.lastEdgeTime).toNat ≤ base.timeoutUs.toNat := by decide

theorem witness_FallingEdgesDriveMsbFirst : base.AcceptsEdges := by decide

theorem witness_EightRisesCompleteOneByte :
    base.AcceptsEdges ∧ base.bitCount = 0#4 ∧
    ∀ k : Fin 7, (BitVec.ofNat 64 (10 * k.succ.val) - BitVec.ofNat 64 (10 * k.castSucc.val)).toNat ≤ base.timeoutUs.toNat := by
  decide

/-- Seven rising edges of a byte. -/
def sevenRises : List Instr := List.replicate 7 (.edgeRise true 10#64)

theorem witness_CompletedByteIsTheLastEightSamples :
    ∃ t u, execAll sevenRises base = .next t ∧ t.AcceptsEdges ∧ exec (.edgeRise false 10#64) t = .next u ∧ u.phase = .callback ∧
      7 ≤ (samplesOf sevenRises base).length :=
  ⟨_, _, rfl, by decide, rfl, by decide, by decide⟩

theorem witness_PendingByteComesFromAMidByteSubmit :
    base.Inv ∧ base.outPendingValid = false ∧
    ∃ t, execAll [.edgeRise true 5#64, .submit 0xA5#8] base = .next t ∧ t.fault = .none ∧ t.phase ≠ .unalloc ∧
      t.outPendingValid = true :=
  ⟨by decide, by decide, _, rfl, by decide, by decide, by decide⟩

/-- A rising edge waits in READY. -/
def waiting : State := { base with port := [rise] }

/-- The same, but for the tags, the stale bits of `in_accum`, `last_edge_time` and the unguarded `out_pending`. -/
def waitingToo : State :=
  { waiting with inAccum := 0xAA#8, lastEdgeTime := 5#64, clockRole := 9#8, speed := 3#8, outPending := 1#8 }

theorem alike_waiting : State.Alike waiting waitingToo := by
  constructor <;> simp [waitingToo, waiting, base, State.reset]

theorem witness_EveryStepKeepsStatesAlike :
    State.Alike waiting waitingToo ∧ ∃ s', step waiting = .next s' ∧ s'.bitCount = 1#4 :=
  ⟨alike_waiting, _, rfl, by decide⟩

theorem witness_UnobservableStateNeverShows :
    State.Alike waiting waitingToo ∧ ∃ s' : State, Host.Core.run Sys2Proof.core 3 waiting = .next s' ∧ s'.bitCount = 1#4 :=
  ⟨alike_waiting, _, rfl, by decide⟩

/-- Every context renamed to one: in READY with an edge waiting, and in UNALLOC, where `cb_ctx` may be anything. -/
theorem witness_EveryStepPassesContextsThrough (x y : Ctx) :
    State.RenamedBy (fun _ => y) { waiting with cbCtx := x, history := [.callback 1#8 x] }
      { waiting with
        cbCtx := y, history := [.callback 1#8 y], port := [{ rise with side := { rise.side with ctx := y } }] } ∧
    State.RenamedBy (fun _ => y) State.reset { State.reset with cbCtx := x } ∧
    ∃ s', step { waiting with cbCtx := x, history := [.callback 1#8 x] } = .next s' :=
  ⟨⟨rfl, fun _ => rfl⟩, ⟨rfl, fun h => absurd rfl h⟩, _, rfl⟩

end Sys2Proof.Tests
end

section
/-! What a step does by what it takes from the port, and how each operation of the model passes contexts through. -/

namespace Sys2Proof.Machine

variable {f : Ctx → Ctx} {s t : State}

/-! ### A step, by what it takes from the port -/

theorem step_of_take_none (h : takeCommand s.holdsEdges s.port = none) : step s = whenClear s (.next s) := by
  simp only [step, h]

theorem step_of_take_legal {c : Command} {rest : List Command} {i : Instr}
    (h : takeCommand s.holdsEdges s.port = some (c, rest)) (hd : decode c = .ok i) :
    step s = whenClear s (exec i (s.withPort rest)) := by
  simp only [step, h, hd]

theorem step_of_take_illegal {c : Command} {rest : List Command} {e : DecodeError}
    (h : takeCommand s.holdsEdges s.port = some (c, rest)) (hd : decode c = .error e) :
    step s = whenClear s (raise (s.withPort rest) .illegalCommand) := by
  simp only [step, h, hd]

/-- A step that has nothing to do gives the same state, whether the block is faulted or not. -/
theorem whenClear_next_self (s : State) : whenClear s (.next s) = .next s := by
  rcases whenClear_cases s (.next s) with ⟨_, e⟩ | ⟨_, e⟩ <;> exact e

/-! ### Promotion and the timeout check, by their conditions -/

theorem promote_pending (h : s.outPendingValid = true) :
    s.promote = { s with outActive := s.outPending, outPendingValid := false } := if_pos h

theorem promote_idle (h : ¬ s.outPendingValid = true) : s.promote = { s with outActive := s.idleByte } := if_neg h

theorem resync_stale {now : Time} (h : stale now s.lastEdgeTime s.timeoutUs = true) :
    s.resync now = { s with inAccum := 0#8, bitCount := 0#4, lastEdgeTime := now } := if_pos h

theorem resync_timely {now : Time} (h : ¬ stale now s.lastEdgeTime s.timeoutUs = true) :
    s.resync now = { s with lastEdgeTime := now } := if_neg h

/-! ### Decoding a command whose context is renamed -/

theorem decodeEdge_mapCtx (p : BitVec 32) (d : Side) :
    decodeEdge p { d with ctx := f d.ctx } = (decodeEdge p d).map (mapInstrCtx f) := by
  unfold decodeEdge
  split
  · cases lvlOf p <;> rfl
  · rfl

theorem decodeByte_map (p : BitVec 32) (mk : BitVec 8 → Instr) (g : Instr → Instr) :
    decodeByte p (fun v => g (mk v)) = (decodeByte p mk).map g := by
  unfold decodeByte
  split <;> rfl

theorem decodeNone_map (p : BitVec 32) (i : Instr) (g : Instr → Instr) :
    decodeNone p (g i) = (decodeNone p i).map g := by
  unfold decodeNone
  split <;> rfl

/-- The opcode map reads the context only to hand it to ALLOC. -/
theorem decodeOp_mapCtx (op : BitVec 8) (p : BitVec 32) (d : Side) :
    decodeOp op p { d with ctx := f d.ctx } = (decodeOp op p d).map (mapInstrCtx f) := by
  unfold decodeOp
  split
  · exact decodeEdge_mapCtx p d
  · exact decodeByte_map p .submit (mapInstrCtx f)
  · exact decodeByte_map p .setIdleByte (mapInstrCtx f)
  · rfl
  · exact decodeByte_map p .setClockRole (mapInstrCtx f)
  · exact decodeByte_map p .setSpeed (mapInstrCtx f)
  · exact decodeByte_map p (fun r => .alloc r d.ctx d.allocOk d.irqOk) (mapInstrCtx f)
  · exact decodeNone_map p .free (mapInstrCtx f)
  · exact decodeNone_map p .cbRet (mapInstrCtx f)
  · rfl

theorem decode_mapCommandCtx (c : Command) : decode (mapCommandCtx f c) = (decode c).map (mapInstrCtx f) := by
  unfold decode mapCommandCtx
  split
  · exact decodeOp_mapCtx _ _ _
  · rfl

theorem decode_mapCommandCtx_ok {c : Command} {i : Instr} (h : decode c = .ok i) :
    decode (mapCommandCtx f c) = .ok (mapInstrCtx f i) := by
  rw [decode_mapCommandCtx, h]
  rfl

theorem decode_mapCommandCtx_error {c : Command} {e : DecodeError} (h : decode c = .error e) :
    decode (mapCommandCtx f c) = .error e := by
  rw [decode_mapCommandCtx, h]
  rfl

theorem isEdgeCommand_mapCommandCtx (c : Command) : isEdgeCommand (mapCommandCtx f c) = isEdgeCommand c := by
  cases h : decode c with
  | ok i => rw [isEdgeCommand_ok h, isEdgeCommand_ok (decode_mapCommandCtx_ok h), isEdge_mapInstrCtx]
  | error e => rw [isEdgeCommand_error h, isEdgeCommand_error (decode_mapCommandCtx_error h)]

/-- Renaming the waiting commands changes neither which one is taken nor which stay. -/
theorem takeCommand_map (f : Ctx → Ctx) (hold : Bool) (p : List Command) :
    takeCommand hold (p.map (mapCommandCtx f)) =
      (takeCommand hold p).map (Prod.map (mapCommandCtx f) (List.map (mapCommandCtx f))) := by
  induction p with
  | nil => rfl
  | cons c cs ih =>
    simp only [List.map_cons, takeCommand, isEdgeCommand_mapCommandCtx, ih]
    split
    · cases takeCommand hold cs <;> rfl
    · rfl

/-! ### What renamed states share -/

namespace State.RenamedBy

theorem phase_eq (h : s.RenamedBy f t) : t.phase = s.phase := (congrArg State.phase h.1 :)

theorem fault_eq (h : s.RenamedBy f t) : t.fault = s.fault := (congrArg State.fault h.1 :)

theorem irqOk_eq (h : s.RenamedBy f t) : t.irqOk = s.irqOk := (congrArg State.irqOk h.1 :)

theorem inAccum_eq (h : s.RenamedBy f t) : t.inAccum = s.inAccum := (congrArg State.inAccum h.1 :)

theorem bitCount_eq (h : s.RenamedBy f t) : t.bitCount = s.bitCount := (congrArg State.bitCount h.1 :)

theorem outActive_eq (h : s.RenamedBy f t) : t.outActive = s.outActive := (congrArg State.outActive h.1 :)

theorem outPendingValid_eq (h : s.RenamedBy f t) : t.outPendingValid = s.outPendingValid :=
  (congrArg State.outPendingValid h.1 :)

theorem lastEdgeTime_eq (h : s.RenamedBy f t) : t.lastEdgeTime = s.lastEdgeTime := (congrArg State.lastEdgeTime h.1 :)

theorem timeoutUs_eq (h : s.RenamedBy f t) : t.timeoutUs = s.timeoutUs := (congrArg State.timeoutUs h.1 :)

theorem freeDraws_eq (h : s.RenamedBy f t) : t.freeDraws = s.freeDraws := (congrArg State.freeDraws h.1 :)

theorem port_eq (h : s.RenamedBy f t) : t.port = s.port.map (mapCommandCtx f) := (congrArg State.port h.1 :)

/-- With a handle `cb_ctx` holds a value (R29), and it is renamed. -/
theorem cbCtx_eq (h : s.RenamedBy f t) (hp : s.phase ≠ .unalloc) : t.cbCtx = f s.cbCtx := h.2 hp

theorem acceptsEdges_iff (h : s.RenamedBy f t) : t.AcceptsEdges ↔ s.AcceptsEdges := by
  rw [State.AcceptsEdges, h.fault_eq, h.phase_eq, h.irqOk_eq]

theorem holdsEdges_eq (h : s.RenamedBy f t) : t.holdsEdges = s.holdsEdges := by
  simp only [State.holdsEdges, h.phase_eq, h.irqOk_eq]

/-! ### Each operation keeps states renamed -/

/-- What is computed from the renamed state is the renamed result. For an update that does not look into the history or
the port both sides evaluate to the same state, so `hg` is `rfl`. -/
theorem update {s' : State} (h : s.RenamedBy f t) (g : State → State)
    (hg : g { s.mapCtx f with cbCtx := t.cbCtx } = { s'.mapCtx f with cbCtx := (g t).cbCtx })
    (hctx : s'.phase ≠ .unalloc → (g t).cbCtx = f s'.cbCtx) : s'.RenamedBy f (g t) :=
  ⟨(congrArg g h.1).trans hg, hctx⟩

theorem withFault (h : s.RenamedBy f t) (c : FaultCode) : (s.withFault c).RenamedBy f (t.withFault c) :=
  h.update (·.withFault c) rfl h.cbCtx_eq

theorem withPort (h : s.RenamedBy f t) (p : List Command) :
    (s.withPort p).RenamedBy f (t.withPort (p.map (mapCommandCtx f))) :=
  h.update (·.withPort (p.map (mapCommandCtx f))) rfl h.cbCtx_eq

theorem queueByte (h : s.RenamedBy f t) (v : Byte) : (s.queueByte v).RenamedBy f (t.queueByte v) :=
  h.update (·.queueByte v) rfl h.cbCtx_eq

theorem loadByte (h : s.RenamedBy f t) (v : Byte) : (s.loadByte v).RenamedBy f (t.loadByte v) :=
  h.update (·.loadByte v) rfl h.cbCtx_eq

theorem shiftIn (h : s.RenamedBy f t) (b : Bool) : (s.shiftIn b).RenamedBy f (t.shiftIn b) :=
  h.update (·.shiftIn b) rfl h.cbCtx_eq

theorem clearCount (h : s.RenamedBy f t) : s.clearCount.RenamedBy f t.clearCount :=
  h.update (·.clearCount) rfl h.cbCtx_eq

theorem emit (h : s.RenamedBy f t) (e : Event) : (s.emit e).RenamedBy f (t.emit (e.mapCtx f)) :=
  h.update (·.emit (e.mapCtx f)) (by simp [State.emit, State.mapCtx]) h.cbCtx_eq

theorem promote (h : s.RenamedBy f t) : s.promote.RenamedBy f t.promote := by
  by_cases hv : s.outPendingValid = true
  · rw [promote_pending hv, promote_pending (h.outPendingValid_eq.trans hv)]
    exact h.update (fun u => { u with outActive := u.outPending, outPendingValid := false }) rfl h.cbCtx_eq
  · rw [promote_idle hv, promote_idle (by rwa [h.outPendingValid_eq])]
    exact h.update (fun u => { u with outActive := u.idleByte }) rfl h.cbCtx_eq

theorem resync (h : s.RenamedBy f t) (now : Time) : (s.resync now).RenamedBy f (t.resync now) := by
  have hstale : stale now t.lastEdgeTime t.timeoutUs = stale now s.lastEdgeTime s.timeoutUs := by
    rw [h.lastEdgeTime_eq, h.timeoutUs_eq]
  by_cases hs : stale now s.lastEdgeTime s.timeoutUs = true
  · rw [resync_stale hs, resync_stale (hstale.trans hs)]
    exact h.update (fun u => { u with inAccum := 0#8, bitCount := 0#4, lastEdgeTime := now }) rfl h.cbCtx_eq
  · rw [resync_timely hs, resync_timely (by rwa [hstale])]
    exact h.update (fun u => { u with lastEdgeTime := now }) rfl h.cbCtx_eq

/-- The callback is handed the renamed context, which with a handle is the one that `cb_ctx` holds (R70). -/
theorem enterCallback (h : s.RenamedBy f t) (hp : s.phase ≠ .unalloc) :
    s.enterCallback.RenamedBy f t.enterCallback := by
  have hctx : t.cbCtx = f s.cbCtx := h.cbCtx_eq hp
  have hopen : { s with phase := .callback }.RenamedBy f { t with phase := .callback } :=
    h.update (fun u => { u with phase := .callback }) rfl fun _ => hctx
  have hev : Event.callback t.inAccum t.cbCtx = (Event.callback s.inAccum s.cbCtx).mapCtx f := by
    rw [h.inAccum_eq, hctx, Event.mapCtx_callback]
  unfold State.enterCallback
  rw [hev]
  exact hopen.emit _

theorem leaveCallback (h : s.RenamedBy f t) (hp : s.phase ≠ .unalloc) :
    s.leaveCallback.RenamedBy f t.leaveCallback :=
  h.update (·.leaveCallback) rfl fun _ => h.cbCtx_eq hp

theorem boundary (h : s.RenamedBy f t) (hp : s.phase ≠ .unalloc) : s.boundary.RenamedBy f t.boundary := by
  by_cases hb : s.bitCount = 8#4
  · rw [boundary_at hb, boundary_at (h.bitCount_eq.trans hb)]
    exact h.clearCount.promote.enterCallback (by simpa using hp)
  · rw [boundary_inside hb, boundary_inside (by rwa [h.bitCount_eq])]
    exact h

theorem driveBit (h : s.RenamedBy f t) : s.driveBit.RenamedBy f t.driveBit := by
  have hshift : { s with soutQ := topBit s.outActive, outActive := shiftedOut s.outActive s.params.outFill }.RenamedBy f
      { t with soutQ := topBit t.outActive, outActive := shiftedOut t.outActive t.params.outFill } :=
    h.update (fun u => { u with soutQ := topBit u.outActive, outActive := shiftedOut u.outActive u.params.outFill })
      rfl h.cbCtx_eq
  have hev : Event.drive (topBit t.outActive) = (Event.drive (topBit s.outActive)).mapCtx f := by
    rw [h.outActive_eq, Event.mapCtx_drive]
  unfold State.driveBit
  rw [hev]
  exact hshift.emit _

theorem allocate (h : s.RenamedBy f t) (role : Tag) (ctx : Ctx) (irq : Bool) :
    (s.allocate role ctx irq).RenamedBy f (t.allocate role (f ctx) irq) :=
  h.update (·.allocate role (f ctx) irq) rfl fun _ => rfl

/-- After FREE `cb_ctx` holds no value (R29), so nothing is asked of it. -/
theorem release (h : s.RenamedBy f t) : s.release.RenamedBy f t.release := by
  refine h.update (·.release) ?_ fun hp => absurd rfl hp
  simp only [State.release, h.freeDraws_eq]
  rfl

end State.RenamedBy

/-! ### Outcomes with renamed contexts -/

/-- Where the first outcome is a next state, the second is that state with its contexts renamed. -/
def RenamesResult (f : Ctx → Ctx) (k k' : Result) : Prop :=
  ∀ u, k = .next u → ∃ u', k' = .next u' ∧ u.RenamedBy f u'

namespace RenamesResult

variable {k k' : Result}

theorem next (h : s.RenamedBy f t) : RenamesResult f (.next s) (.next t) := by
  rintro _ ⟨rfl⟩
  exact ⟨t, rfl, h⟩

theorem raise (h : s.RenamedBy f t) (c : FaultCode) : RenamesResult f (raise s c) (raise t c) :=
  next (h.withFault c)

theorem whenClear (h : s.RenamedBy f t) (hk : RenamesResult f k k') :
    RenamesResult f (whenClear s k) (whenClear t k') := by
  unfold Machine.whenClear
  rw [h.fault_eq]
  split
  · exact hk
  · exact next h

theorem onEdge (h : s.RenamedBy f t) (hk : s.phase ≠ .unalloc → RenamesResult f k k') :
    RenamesResult f (onEdge s k) (onEdge t k') := by
  by_cases ha : s.AcceptsEdges
  · rw [onEdge_accepts ha, onEdge_accepts (h.acceptsEdges_iff.mpr ha)]
    obtain ⟨_, hready, _⟩ := ha
    exact hk (by simp [hready])
  · rw [onEdge_rejects ha, onEdge_rejects (h.acceptsEdges_iff.not.mpr ha)]
    exact next h

theorem onHandle (h : s.RenamedBy f t) (hk : RenamesResult f k k') :
    RenamesResult f (onHandle s k) (onHandle t k') := by
  refine whenClear h ?_
  rw [h.phase_eq]
  split
  · exact raise h _
  · exact hk

end RenamesResult

/-! ### Each meaning, and the step -/

theorem execSubmit_renames (h : s.RenamedBy f t) (v : Byte) :
    RenamesResult f (execSubmit v s) (execSubmit v t) := by
  refine .onHandle h (.next ?_)
  rw [h.bitCount_eq]
  split
  · exact h.loadByte v
  · exact h.queueByte v

theorem execAlloc_renames (h : s.RenamedBy f t) (r : Tag) (x : Ctx) (a q : Bool) :
    RenamesResult f (execAlloc r x a q s) (execAlloc r (f x) a q t) := by
  refine .whenClear h ?_
  rw [h.phase_eq]
  cases s.phase with
  | unalloc =>
    cases a with
    | true => exact .next (h.allocate r x q)
    | false => exact .raise h _
  | ready => exact .raise h _
  | callback => exact .raise h _

theorem execFree_renames (h : s.RenamedBy f t) : RenamesResult f (execFree s) (execFree t) := by
  refine .whenClear h ?_
  rw [h.phase_eq]
  cases s.phase with
  | unalloc => exact .raise h _
  | ready => exact .next h.release
  | callback => exact .raise h _

theorem execCbRet_renames (h : s.RenamedBy f t) : RenamesResult f (execCbRet s) (execCbRet t) := by
  refine .whenClear h ?_
  rw [h.phase_eq]
  cases hp : s.phase with
  | unalloc => exact .raise h _
  | ready => exact .raise h _
  | callback => exact .next (h.leaveCallback (by simp [hp]))

/-- A command with its context renamed does the same to the renamed state. -/
theorem exec_renames (h : s.RenamedBy f t) (i : Instr) :
    RenamesResult f (exec i s) (exec (mapInstrCtx f i) t) := by
  cases i with
  | edgeRise b now => exact .onEdge h fun hp => .next (((h.resync now).shiftIn b).boundary (by simpa using hp))
  | edgeFall b now => exact .onEdge h fun _ => .next h.driveBit
  | submit v => exact execSubmit_renames h v
  | setIdleByte v => exact .onHandle h (.next (h.update (fun u => { u with idleByte := v }) rfl h.cbCtx_eq))
  | setTimeout v => exact .onHandle h (.next (h.update (fun u => { u with timeoutUs := v }) rfl h.cbCtx_eq))
  | setClockRole r =>
    exact .onHandle h (.next (h.clearCount.update (fun u => { u with clockRole := r }) rfl h.cbCtx_eq))
  | setSpeed p => exact .onHandle h (.next (h.update (fun u => { u with speed := p }) rfl h.cbCtx_eq))
  | alloc r x a q => exact execAlloc_renames h r x a q
  | free => exact execFree_renames h
  | cbRet => exact execCbRet_renames h

/-- The renamed port gives the renamed command, and it runs as the other does. -/
theorem step_renames (h : s.RenamedBy f t) : RenamesResult f (step s) (step t) := by
  have htake : takeCommand t.holdsEdges t.port = (takeCommand s.holdsEdges s.port).map
      (Prod.map (mapCommandCtx f) (List.map (mapCommandCtx f))) := by
    rw [h.holdsEdges_eq, h.port_eq, takeCommand_map]
  cases hs : takeCommand s.holdsEdges s.port with
  | none =>
    rw [hs] at htake
    rw [step_of_take_none hs, step_of_take_none htake]
    exact .whenClear h (.next h)
  | some taken =>
    obtain ⟨c, rest⟩ := taken
    rw [hs] at htake
    cases hd : decode c with
    | ok i =>
      rw [step_of_take_legal hs hd, step_of_take_legal htake (decode_mapCommandCtx_ok hd)]
      exact .whenClear h (exec_renames (h.withPort rest) i)
    | error e =>
      rw [step_of_take_illegal hs hd, step_of_take_illegal htake (decode_mapCommandCtx_error hd)]
      exact .whenClear h (.raise (h.withPort rest) _)

/-! ### The obligations of 00_scope -/

/-- Settles O48: every operation of the model keeps states renamed, so every step does. -/
theorem everyStepPassesContextsThrough : Obligations.EveryStepPassesContextsThrough :=
  fun _ _ _ s' h hstep => step_renames h s' hstep

/-- Settles O12: with an empty port there is nothing to take. -/
theorem idleBlockKeepsItsState : Obligations.IdleBlockKeepsItsState := by
  intro s hport
  rw [step_of_take_none (by rw [hport]; rfl), whenClear_next_self]

/-- Settles O29: the fields of `State.reset` and `Params.default` by evaluation. -/
theorem powerOnState : Obligations.PowerOnState :=
  ⟨rfl, rfl, rfl, rfl, rfl, rfl, rfl⟩

/-- Settles O36: the invariant has the handler registered in CALLBACK, so EDGEs are held and the command
taken is none of them. -/
theorem callbackPhaseIsTheCallbackAgents : Obligations.CallbackPhaseIsTheCallbackAgents := by
  intro s c rest i hinv hp htake hd
  obtain ⟨_, hcallback, _⟩ := hinv
  obtain ⟨_, hq, _⟩ := hcallback hp
  obtain ⟨_, _, _, _, _, hfree⟩ := takeCommand_split htake
  have hedge : isEdge i = false := by simpa [holdsEdges_callback hp hq, isEdgeCommand_ok hd] using hfree
  simp [issuer, hedge, hp]

end Sys2Proof.Machine
end

section
/-! What a command does in general, by the acceptance table: executed, passed over, or faulted. Every frame and every
invariant below is read off these lemmas. -/

namespace Sys2Proof.Machine

variable {i : Instr} {s t u : State} {b : Bool} {now : Time}

/-! ### A command by its entry of the acceptance table (R86) -/

/-- The outcome `k` of the command `i` in `s` is what the entry says: its effect, no change (of an EDGE, the only command
the table lets pass), or a fault and nothing else. -/
def Answers (i : Instr) (s : State) (k : Result) : Verdict → Prop
  | .execute => ∃ t, k = .next t ∧ Effect i s t
  | .ignore => isEdge i = true ∧ k = .next s
  | .hold => isEdge i = true ∧ k = .next s
  | .fault c => c ≠ .none ∧ k = .next (s.withFault c)

theorem onEdge_answers (hi : isEdge i = true) (hf : s.fault = .none) (he : s.AcceptsEdges → Effect i s u) :
    Answers i s (onEdge s (.next u)) (edgeVerdict s) := by
  unfold edgeVerdict
  cases hp : s.phase with
  | unalloc => exact ⟨hi, onEdge_rejects (by simp [State.AcceptsEdges, hp])⟩
  | ready =>
    cases hq : s.irqOk with
    | true => exact ⟨u, onEdge_accepts ⟨hf, hp, hq⟩, he ⟨hf, hp, hq⟩⟩
    | false => exact ⟨hi, onEdge_rejects (by simp [State.AcceptsEdges, hq])⟩
  | callback => exact ⟨hi, onEdge_rejects (by simp [State.AcceptsEdges, hp])⟩

theorem onHandle_answers (hf : s.fault = .none) (he : s.phase ≠ .unalloc → Effect i s u) :
    Answers i s (onHandle s (.next u)) (handleVerdict s) := by
  unfold handleVerdict
  cases hp : s.phase with
  | unalloc => exact ⟨by decide, onHandle_unalloc hf hp⟩
  | ready =>
    have hn : s.phase ≠ .unalloc := by simp [hp]
    exact ⟨u, onHandle_executes hf hn, he hn⟩
  | callback =>
    have hn : s.phase ≠ .unalloc := by simp [hp]
    exact ⟨u, onHandle_executes hf hn, he hn⟩

theorem execAlloc_answers (hf : s.fault = .none) (r : Tag) (x : Ctx) (a q : Bool) :
    Answers (.alloc r x a q) s (execAlloc r x a q s) (verdict (.alloc r x a q) s) := by
  unfold execAlloc verdict
  rw [whenClear_good hf]
  cases hp : s.phase with
  | unalloc =>
    cases a with
    | true => exact ⟨_, rfl, hf, hp, rfl, rfl⟩
    | false => exact ⟨by decide, rfl⟩
  | ready => exact ⟨by decide, rfl⟩
  | callback => exact ⟨by decide, rfl⟩

theorem execFree_answers (hf : s.fault = .none) : Answers .free s (execFree s) (verdict .free s) := by
  unfold execFree verdict
  rw [whenClear_good hf]
  cases hp : s.phase with
  | unalloc => exact ⟨by decide, rfl⟩
  | ready => exact ⟨_, rfl, hf, hp, rfl⟩
  | callback => exact ⟨by decide, rfl⟩

theorem execCbRet_answers (hf : s.fault = .none) : Answers .cbRet s (execCbRet s) (verdict .cbRet s) := by
  unfold execCbRet verdict
  rw [whenClear_good hf]
  cases hp : s.phase with
  | unalloc => exact ⟨by decide, rfl⟩
  | ready => exact ⟨by decide, rfl⟩
  | callback => exact ⟨_, rfl, hf, hp, rfl⟩

/-- Without a fault, what a command does is its entry of the table. -/
theorem exec_answers (i : Instr) (hf : s.fault = .none) : Answers i s (exec i s) (verdict i s) := by
  cases i with
  | edgeRise b now => exact onEdge_answers rfl hf fun ha => ⟨ha, rfl⟩
  | edgeFall b now => exact onEdge_answers rfl hf fun ha => ⟨ha, rfl⟩
  | submit v => exact onHandle_answers hf fun hp => ⟨hf, hp, rfl⟩
  | setIdleByte v => exact onHandle_answers hf fun hp => ⟨hf, hp, rfl⟩
  | setTimeout v => exact onHandle_answers hf fun hp => ⟨hf, hp, rfl⟩
  | setClockRole r => exact onHandle_answers hf fun hp => ⟨hf, hp, rfl⟩
  | setSpeed p => exact onHandle_answers hf fun hp => ⟨hf, hp, rfl⟩
  | alloc r x a q => exact execAlloc_answers hf r x a q
  | free => exact execFree_answers hf
  | cbRet => exact execCbRet_answers hf

/-- The table reads the phase and `irq_ok` of a state, and nothing else. -/
theorem verdict_congr (i : Instr) (hp : s.phase = t.phase) (hq : s.irqOk = t.irqOk) : verdict i s = verdict i t := by
  have hedge : edgeVerdict s = edgeVerdict t := by rw [edgeVerdict, hp, hq]; rfl
  have hhandle : handleVerdict s = handleVerdict t := by rw [handleVerdict, hp]; rfl
  cases i with
  | edgeRise b now => exact hedge
  | edgeFall b now => exact hedge
  | submit v => exact hhandle
  | setIdleByte v => exact hhandle
  | setTimeout v => exact hhandle
  | setClockRole r => exact hhandle
  | setSpeed p => exact hhandle
  | alloc r x a q => rw [verdict, hp]; rfl
  | free => rw [verdict, hp]; rfl
  | cbRet => rw [verdict, hp]; rfl

/-! ### Faulted states -/

/-- R84: a faulted block executes no command. -/
theorem exec_faulted (i : Instr) (hf : s.fault ≠ .none) : exec i s = .next s := by
  cases i <;> exact whenClear_faulted hf

theorem step_faulted (hf : s.fault ≠ .none) : step s = .next s := whenClear_faulted hf

/-- A command that leaves no fault found none, and was executed unless it is an EDGE that was let pass. -/
theorem exec_good (h : exec i s = .next t) (ht : t.fault = .none) :
    s.fault = .none ∧ (Effect i s t ∨ (isEdge i = true ∧ t = s)) := by
  by_cases hf : s.fault = .none
  · refine ⟨hf, ?_⟩
    have ha := exec_answers i hf
    rw [h] at ha
    generalize verdict i s = w at ha
    cases w with
    | execute =>
      obtain ⟨_, ⟨⟩, he⟩ := ha
      exact .inl he
    | ignore | hold =>
      obtain ⟨hi, ⟨⟩⟩ := ha
      exact .inr ⟨hi, rfl⟩
    | fault c =>
      obtain ⟨hc, ⟨⟩⟩ := ha
      exact absurd ht hc
  · rw [exec_faulted i hf] at h
    cases h
    exact absurd ht hf

/-! ### A rising edge inside a byte and at its boundary -/

/-- An executed EDGE_RISE stays inside a byte, or completes one: then `bit_count` was 7 and the edge timely (R60 to R62). -/
theorem rise_cases (b : Bool) (now : Time) (s : State) :
    (((s.resync now).shiftIn b).bitCount ≠ 8#4 ∧
      ((s.resync now).shiftIn b).boundary = (s.resync now).shiftIn b) ∨
    (s.bitCount = 7#4 ∧ ¬ stale now s.lastEdgeTime s.timeoutUs = true ∧
      ((s.resync now).shiftIn b).boundary = ((s.resync now).shiftIn b).clearCount.promote.enterCallback) := by
  by_cases h8 : ((s.resync now).shiftIn b).bitCount = 8#4
  · have htimely : ¬ stale now s.lastEdgeTime s.timeoutUs = true := by
      intro hs
      simp [hs] at h8
    have h7 : s.bitCount = 7#4 := by
      simp only [State.shiftIn_bitCount, State.resync_bitCount, if_neg htimely] at h8
      bv_omega
    exact .inr ⟨h7, htimely, boundary_at h8⟩
  · exact .inl ⟨h8, boundary_inside h8⟩

/-! ### What every executed command keeps -/

theorem effect_fault (h : Effect i s t) : t.fault = s.fault := by
  cases i with
  | submit v =>
    obtain ⟨_, _, rfl⟩ := h
    split <;> rfl
  | edgeRise b now =>
    obtain ⟨_, rfl⟩ := h
    simp
  | edgeFall b now =>
    obtain ⟨_, rfl⟩ := h
    rfl
  | alloc r x a q =>
    obtain ⟨_, _, _, rfl⟩ := h
    rfl
  | setIdleByte v | setTimeout v | setClockRole v | setSpeed v | free | cbRet =>
    obtain ⟨_, _, rfl⟩ := h
    rfl

end Sys2Proof.Machine
end

section
/-! The rules of 10_state about single commands and steps: faults, the writers of each register, the phase, the events, and
the invariant. -/

namespace Sys2Proof.Machine

variable {i : Instr} {s t : State}

/-! ### The invariant (R12, R14, R24, R30) -/

namespace State.Inv

theorem withPort (h : s.Inv) (p : List Command) : (s.withPort p).Inv := h

theorem withFault (h : s.Inv) (c : FaultCode) : (s.withFault c).Inv := h

/-- In READY the invariant is the bound of `bit_count`. -/
theorem of_ready (hp : s.phase = .ready) (hb : s.bitCount.toNat ≤ 7) : s.Inv :=
  ⟨hb, fun hc => by simp [hp] at hc, fun hu => by simp [hp] at hu⟩

end State.Inv

/-- Away from a boundary a rising edge counts to at most 7; at one the count returns to 0 and no byte stays pending. -/
theorem inv_rise (h : s.Inv) (ha : s.AcceptsEdges) (b : Bool) (now : Time) :
    ((s.resync now).shiftIn b).boundary.Inv := by
  obtain ⟨hb, _, _⟩ := h
  obtain ⟨_, hp, hq⟩ := ha
  rcases rise_cases b now s with ⟨h8, e⟩ | ⟨_, _, e⟩
  · rw [e]
    refine .of_ready (by simp [hp]) ?_
    have hr : (s.resync now).bitCount.toNat ≤ 7 := by
      rw [State.resync_bitCount]
      split
      · decide
      · exact hb
    rw [State.shiftIn_bitCount] at h8 ⊢
    bv_omega
  · rw [e]
    exact ⟨by simp, fun _ => by simp [hq], fun hu => by simp at hu⟩

/-- A SUBMIT in CALLBACK finds `bit_count` = 0, so it leaves no byte pending (R67 corner case 1). -/
theorem inv_submit (h : s.Inv) (v : Byte) :
    (if s.bitCount = 0#4 then s.loadByte v else s.queueByte v).Inv := by
  obtain ⟨hb, hc, hu⟩ := h
  by_cases h0 : s.bitCount = 0#4
  · rw [if_pos h0]
    refine ⟨hb, fun hp => ?_, hu⟩
    obtain ⟨_, hq, _⟩ := hc hp
    exact ⟨h0, hq, rfl⟩
  · rw [if_neg h0]
    refine ⟨hb, fun hp => ?_, hu⟩
    obtain ⟨h0', _, _⟩ := hc hp
    exact absurd h0' h0

theorem inv_release (s : State) : s.release.Inv := by
  refine ⟨?_, fun hp => by simp at hp, fun _ => ⟨rfl, rfl⟩⟩
  simp only [State.release_bitCount, BitVec.toNat_ofNat]
  omega

theorem effect_inv (h : s.Inv) (he : Effect i s t) : t.Inv := by
  obtain ⟨hb, hc, hu⟩ := id h
  cases i with
  | edgeRise b now =>
    obtain ⟨ha, rfl⟩ := he
    exact inv_rise h ha b now
  | edgeFall b now =>
    obtain ⟨⟨_, hp, _⟩, rfl⟩ := he
    exact .of_ready hp hb
  | submit v =>
    obtain ⟨_, _, rfl⟩ := he
    exact inv_submit h v
  | setIdleByte v | setTimeout v | setSpeed v =>
    obtain ⟨_, _, rfl⟩ := he
    exact h
  | setClockRole r =>
    obtain ⟨_, _, rfl⟩ := he
    exact ⟨by simp, fun hp => ⟨rfl, (hc hp).2⟩, hu⟩
  | alloc r x a q =>
    obtain ⟨_, _, _, rfl⟩ := he
    exact .of_ready rfl (by simp)
  | free =>
    obtain ⟨_, _, rfl⟩ := he
    exact inv_release s
  | cbRet =>
    obtain ⟨_, _, rfl⟩ := he
    exact .of_ready rfl hb

theorem exec_inv (h : s.Inv) (he : exec i s = .next t) : t.Inv := by
  rcases exec_cases he with rfl | ⟨_, c, _, rfl⟩ | he
  · exact h
  · exact h.withFault c
  · exact effect_inv h he

/-- Settles O31: a step does nothing, runs a command, or faults, and each keeps the invariant. -/
theorem everyStepKeepsTheInvariant : Obligations.EveryStepKeepsTheInvariant := by
  intro s t h hstep
  rcases step_cases hstep with rfl | ⟨_, c, rest, _, ⟨i, _, he⟩ | ⟨_, _, rfl⟩⟩
  · exact h
  · exact exec_inv (h.withPort rest) he
  · exact (h.withPort rest).withFault _

/-- Settles O30: the invariant of `State.reset` by evaluation. -/
theorem powerOnMeetsTheInvariant : Obligations.PowerOnMeetsTheInvariant := by
  refine ⟨by decide, fun hp => ?_, fun _ => ⟨rfl, rfl⟩⟩
  cases hp

/-! ### Faults (R84) -/

/-- Settles O13: a faulted block runs nothing, and of what a command can do only a fault writes the fault register. -/
theorem faultsAreStickyAndPrecise : Obligations.FaultsAreStickyAndPrecise := by
  refine fun s => ⟨fun hf => ⟨step_faulted hf, fun i => exec_faulted i hf⟩, fun i t h hne => ?_⟩
  rcases exec_cases h with rfl | ⟨hf, c, _, rfl⟩ | he
  · exact absurd rfl hne
  · exact ⟨hf, rfl⟩
  · exact absurd (effect_fault he) hne

/-! ### The phase (R10, R90) -/

/-- Settles O33: of the commands only a boundary EDGE_RISE, ALLOC, FREE and CB_RET write the phase. -/
theorem phaseChanges : Obligations.PhaseChanges := by
  intro i s t h hne
  rcases exec_cases h with rfl | ⟨_, c, _, rfl⟩ | he
  · exact absurd rfl hne
  · exact absurd rfl hne
  cases i with
  | edgeRise b now =>
    obtain ⟨⟨_, hp, _⟩, rfl⟩ := he
    rcases rise_cases b now s with ⟨_, e⟩ | ⟨h7, _, e⟩ <;> rw [e] at hne ⊢
    · simp at hne
    · exact .inr (.inr (.inl ⟨hp, rfl, h7, by simp, b, now, rfl⟩))
  | edgeFall b now =>
    obtain ⟨_, rfl⟩ := he
    exact absurd rfl hne
  | submit v =>
    obtain ⟨_, _, rfl⟩ := he
    split at hne <;> exact absurd rfl hne
  | setIdleByte v | setTimeout v | setClockRole r | setSpeed p =>
    obtain ⟨_, _, rfl⟩ := he
    exact absurd rfl hne
  | alloc r x a q =>
    obtain ⟨_, hp, rfl, rfl⟩ := he
    exact .inl ⟨hp, rfl, r, x, q, rfl⟩
  | free =>
    obtain ⟨_, hp, rfl⟩ := he
    exact .inr (.inl ⟨hp, rfl, rfl⟩)
  | cbRet =>
    obtain ⟨_, hp, rfl⟩ := he
    exact .inr (.inr (.inr ⟨hp, rfl, rfl⟩))

/-! ### The events (R26, R38, R70) -/

/-- Settles O34: EDGE_FALL appends its `Drive`, an EDGE_RISE at a boundary its `Callback`; no other command touches the
history or enters CALLBACK. -/
theorem onlyEdgesEmitEvents : Obligations.OnlyEdgesEmitEvents := by
  intro i s t h
  rcases exec_cases h with rfl | ⟨_, c, _, rfl⟩ | he
  · exact .inl ⟨rfl, id⟩
  · exact .inl ⟨rfl, id⟩
  cases i with
  | edgeRise b now =>
    obtain ⟨ha, rfl⟩ := he
    rcases rise_cases b now s with ⟨_, e⟩ | ⟨_, _, e⟩ <;> rw [e]
    · exact .inl ⟨by simp, by simp⟩
    · exact .inr (.inr ⟨ha, rfl, by simp, by simp, b, now, rfl⟩)
  | edgeFall b now =>
    obtain ⟨ha, rfl⟩ := he
    obtain ⟨_, hp, _⟩ := id ha
    exact .inr (.inl ⟨ha, hp, rfl, rfl, b, now, rfl⟩)
  | submit v =>
    obtain ⟨_, _, rfl⟩ := he
    split <;> exact .inl ⟨rfl, id⟩
  | setIdleByte v | setTimeout v | setClockRole r | setSpeed p =>
    obtain ⟨_, _, rfl⟩ := he
    exact .inl ⟨rfl, id⟩
  | alloc r x a q =>
    obtain ⟨_, _, _, rfl⟩ := he
    exact .inl ⟨rfl, fun hp => by simp at hp⟩
  | free | cbRet =>
    obtain ⟨_, _, rfl⟩ := he
    exact .inl ⟨rfl, fun hp => by simp at hp⟩

/-! ### The writers of each register (R12 to R24) -/

/-- Settles O32: a command that is not executed writes at most the fault register, and an executed one only the fields its
effect names. -/
theorem registersHaveOnlyTheirWriters : Obligations.RegistersHaveOnlyTheirWriters := by
  intro i s t h
  rcases exec_cases h with rfl | ⟨_, c, _, rfl⟩ | he
  · simp
  · simp
  cases i with
  | edgeRise b now | edgeFall b now =>
    obtain ⟨_, rfl⟩ := he
    simp
  | submit v =>
    obtain ⟨_, _, rfl⟩ := he
    split <;> simp
  | alloc r x a q =>
    obtain ⟨_, _, _, rfl⟩ := he
    simp
  | setIdleByte v | setTimeout v | setClockRole r | setSpeed p | free | cbRet =>
    obtain ⟨_, _, rfl⟩ := he
    simp

/-! ### The codes of the phase (R10) -/

/-- Settles O47: each phase has its code by evaluation, and none has the code 3. -/
theorem phaseCodeValues : Obligations.PhaseCodeValues := by
  refine ⟨rfl, rfl, rfl, fun p => ?_⟩
  cases p <;> decide

end Sys2Proof.Machine
end

section
/-! States that no observer can tell apart stay so: each operation keeps `State.Alike`, so each command and each step
does. -/

namespace Sys2Proof.Machine

variable {i : Instr} {s t s' t' : State}

/-! ### The edge handler, bit by bit -/

theorem shiftedIn_getLsbD_zero (acc : Byte) (b : Bool) : (shiftedIn acc b).getLsbD 0 = b := by
  cases b <;> simp [shiftedIn, sampleByte]

theorem shiftedIn_getLsbD_succ (acc : Byte) (b : Bool) (k : Nat) :
    (shiftedIn acc b).getLsbD (k + 1) = (decide (k + 1 < 8) && acc.getLsbD k) := by
  cases b <;> simp [shiftedIn, sampleByte]

/-- The count after one more bit, from below: 4-bit arithmetic can only wrap. -/
theorem lt_of_succ_lt_count {n : BitCount} {k : Nat} (h : k + 1 < (n + 1#4).toNat) : k < n.toNat := by
  bv_omega

/-- Between bytes the timeout check changes `in_accum` and `last_edge_time` at most, stale or not. -/
theorem resync_between_bytes (now : Time) (h0 : s.bitCount = 0#4) :
    ∃ acc, s.resync now = { s with inAccum := acc, lastEdgeTime := now } := by
  by_cases hs : stale now s.lastEdgeTime s.timeoutUs = true
  · exact ⟨0#8, by rw [resync_stale hs, ← h0]⟩
  · exact ⟨s.inAccum, resync_timely hs⟩

/-! ### Each operation keeps states alike -/

namespace State.Alike

theorem withFault (h : s.Alike t) (c : FaultCode) : (s.withFault c).Alike (t.withFault c) :=
  { h with fault := rfl }

theorem withPort (h : s.Alike t) (p : List Command) : (s.withPort p).Alike (t.withPort p) :=
  { h with port := rfl }

theorem emit (h : s.Alike t) {e e' : Event} (he : e = e') : (s.emit e).Alike (t.emit e') :=
  { h with history := congrArg₂ (fun l x => l ++ [x]) h.history he }

/-- With a handle every observable field agrees already, so they may move to any phase together. -/
theorem withPhase (h : s.Alike t) (hp : s.phase ≠ .unalloc) (p : Phase) :
    ({ s with phase := p } : State).Alike { t with phase := p } :=
  { h with
    phase := rfl
    bitCount := fun _ => h.bitCount hp
    outActive := fun _ => h.outActive hp
    outPendingValid := fun _ => h.outPendingValid hp
    outPending := fun _ => h.outPending hp
    idleByte := fun _ => h.idleByte hp
    timeoutUs := fun _ => h.timeoutUs hp
    cbCtx := fun _ => h.cbCtx hp
    inAccum := fun _ => h.inAccum hp
    lastEdgeTime := fun _ => h.lastEdgeTime hp }

theorem queueByte (h : s.Alike t) (v : Byte) : (s.queueByte v).Alike (t.queueByte v) :=
  { h with outPending := fun _ _ => rfl, outPendingValid := fun _ => rfl }

theorem loadByte (h : s.Alike t) (v : Byte) : (s.loadByte v).Alike (t.loadByte v) :=
  { h with
    outActive := fun _ => rfl
    outPendingValid := fun _ => rfl
    outPending := fun _ hv => by simp at hv }

theorem clearCount (h : s.Alike t) : s.clearCount.Alike t.clearCount :=
  { h with
    bitCount := fun _ => rfl
    inAccum := fun _ k hk => by simp at hk
    lastEdgeTime := fun _ h0 => absurd rfl h0 }

/-- Promotion reads `out_pending` only where its flag guards it. -/
theorem promote (h : s.Alike t) (hp : s.phase ≠ .unalloc) : s.promote.Alike t.promote := by
  by_cases hv : s.outPendingValid = true
  · rw [promote_pending hv, promote_pending ((h.outPendingValid hp).symm.trans hv)]
    exact { h with
      outActive := fun _ => h.outPending hp hv
      outPendingValid := fun _ => rfl
      outPending := fun _ hv' => by simp at hv' }
  · rw [promote_idle hv, promote_idle (by rwa [← h.outPendingValid hp])]
    exact { h with outActive := h.idleByte }

/-- Inside a byte the two gaps are the same; between bytes a stale gap discards nothing that can be observed (R31, R60). -/
theorem resync (h : s.Alike t) (hp : s.phase ≠ .unalloc) (now : Time) : (s.resync now).Alike (t.resync now) := by
  by_cases h0 : s.bitCount = 0#4
  · have h0' : t.bitCount = 0#4 := (h.bitCount hp).symm.trans h0
    obtain ⟨acc, e⟩ := resync_between_bytes now h0
    obtain ⟨acc', e'⟩ := resync_between_bytes now h0'
    rw [e, e']
    exact { h with
      inAccum := fun _ k hk => by simp [h0] at hk
      lastEdgeTime := fun _ _ => rfl }
  · have hstale : stale now t.lastEdgeTime t.timeoutUs = stale now s.lastEdgeTime s.timeoutUs := by
      rw [h.lastEdgeTime hp h0, h.timeoutUs hp]
    by_cases hs : stale now s.lastEdgeTime s.timeoutUs = true
    · rw [resync_stale hs, resync_stale (hstale.trans hs)]
      exact { h with
        bitCount := fun _ => rfl
        inAccum := fun _ k hk => by simp at hk
        lastEdgeTime := fun _ _ => rfl }
    · rw [resync_timely hs, resync_timely (by rwa [hstale])]
      exact { h with lastEdgeTime := fun _ _ => rfl }

/-- One more bit is observable, the sample; the bits that were observable move up by one (R61). -/
theorem shiftIn (h : s.Alike t) (hp : s.phase ≠ .unalloc) (hlast : s.lastEdgeTime = t.lastEdgeTime) (b : Bool) :
    (s.shiftIn b).Alike (t.shiftIn b) :=
  { h with
    bitCount := fun _ => congrArg (· + 1#4) (h.bitCount hp)
    lastEdgeTime := fun _ _ => hlast
    inAccum := fun _ k hk => by
      cases k with
      | zero => simp only [State.shiftIn_inAccum, shiftedIn_getLsbD_zero]
      | succ k =>
        simp only [State.shiftIn_inAccum, shiftedIn_getLsbD_succ, h.inAccum hp k (lt_of_succ_lt_count hk)] }

/-- The callback shows `in_accum` and `cb_ctx`, which have to agree. -/
theorem enterCallback (h : s.Alike t) (hp : s.phase ≠ .unalloc) (hacc : s.inAccum = t.inAccum) :
    s.enterCallback.Alike t.enterCallback :=
  (h.withPhase hp .callback).emit (congrArg₂ Event.callback hacc (h.cbCtx hp))

theorem leaveCallback (h : s.Alike t) (hp : s.phase ≠ .unalloc) : s.leaveCallback.Alike t.leaveCallback :=
  h.withPhase hp .ready

/-- At a byte boundary all eight bits of `in_accum` are observable, so the byte handed over is the same. -/
theorem boundary (h : s.Alike t) (hp : s.phase ≠ .unalloc) : s.boundary.Alike t.boundary := by
  by_cases h8 : s.bitCount = 8#4
  · have hacc : s.inAccum = t.inAccum :=
      BitVec.eq_of_getLsbD_eq fun k hk => h.inAccum hp k (by rw [h8]; exact hk)
    rw [boundary_at h8, boundary_at ((h.bitCount hp).symm.trans h8)]
    exact (h.clearCount.promote hp).enterCallback (by simpa using hp) (by simpa using hacc)
  · rw [boundary_inside h8, boundary_inside (by rwa [← h.bitCount hp])]
    exact h

theorem rise (h : s.Alike t) (hp : s.phase ≠ .unalloc) (b : Bool) (now : Time) :
    ((s.resync now).shiftIn b).boundary.Alike ((t.resync now).shiftIn b).boundary := by
  have hp' : (s.resync now).phase ≠ .unalloc := by simpa using hp
  exact ((h.resync hp now).shiftIn hp' (by simp) b).boundary hp'

theorem driveBit (h : s.Alike t) (hp : s.phase ≠ .unalloc) : s.driveBit.Alike t.driveBit := by
  have htop : topBit s.outActive = topBit t.outActive := congrArg topBit (h.outActive hp)
  have hrest : shiftedOut s.outActive s.params.outFill = shiftedOut t.outActive t.params.outFill := by
    rw [h.outActive hp, h.params]
  have hshift :
      ({ s with soutQ := topBit s.outActive, outActive := shiftedOut s.outActive s.params.outFill } : State).Alike
        { t with soutQ := topBit t.outActive, outActive := shiftedOut t.outActive t.params.outFill } :=
    { h with soutQ := htop, outActive := fun _ => hrest }
  exact hshift.emit (congrArg Event.drive htop)

theorem submit (h : s.Alike t) (hp : s.phase ≠ .unalloc) (v : Byte) :
    (if s.bitCount = 0#4 then s.loadByte v else s.queueByte v).Alike
      (if t.bitCount = 0#4 then t.loadByte v else t.queueByte v) := by
  rw [h.bitCount hp]
  split
  · exact h.loadByte v
  · exact h.queueByte v

/-- ALLOC writes every field that a state with a handle may show. -/
theorem allocate (h : s.Alike t) (r : Tag) (x : Ctx) (q : Bool) : (s.allocate r x q).Alike (t.allocate r x q) :=
  { h with
    phase := rfl
    irqOk := rfl
    bitCount := fun _ => rfl
    outActive := fun _ => congrArg Params.outActiveReset h.params
    outPendingValid := fun _ => rfl
    outPending := fun _ _ => rfl
    idleByte := fun _ => congrArg Params.idleByteReset h.params
    timeoutUs := fun _ => rfl
    cbCtx := fun _ => rfl
    inAccum := fun _ _ _ => rfl
    lastEdgeTime := fun _ _ => rfl }

/-- In UNALLOC nothing is asked of a field without a value (R29). -/
theorem release (h : s.Alike t) : s.release.Alike t.release :=
  { h with
    phase := rfl
    irqOk := rfl
    soutQ := rfl
    freeDraws := congrArg (· + 1) h.freeDraws
    bitCount := fun hp => absurd rfl hp
    outActive := fun hp => absurd rfl hp
    outPendingValid := fun hp => absurd rfl hp
    outPending := fun hp => absurd rfl hp
    idleByte := fun hp => absurd rfl hp
    timeoutUs := fun hp => absurd rfl hp
    cbCtx := fun hp => absurd rfl hp
    inAccum := fun hp => absurd rfl hp
    lastEdgeTime := fun hp => absurd rfl hp }

theorem holdsEdges_eq (h : s.Alike t) : s.holdsEdges = t.holdsEdges := by
  simp only [State.holdsEdges, h.phase, h.irqOk]

end State.Alike

/-! ### Commands and steps -/

theorem effect_alike (h : s.Alike t) (hs : Effect i s s') (ht : Effect i t t') : s'.Alike t' := by
  cases i with
  | edgeRise b now =>
    obtain ⟨⟨_, hp, _⟩, rfl⟩ := hs
    obtain ⟨_, rfl⟩ := ht
    exact h.rise (by simp [hp]) b now
  | edgeFall b now =>
    obtain ⟨⟨_, hp, _⟩, rfl⟩ := hs
    obtain ⟨_, rfl⟩ := ht
    exact h.driveBit (by simp [hp])
  | submit v =>
    obtain ⟨_, hp, rfl⟩ := hs
    obtain ⟨_, _, rfl⟩ := ht
    exact h.submit hp v
  | setIdleByte v =>
    obtain ⟨_, _, rfl⟩ := hs
    obtain ⟨_, _, rfl⟩ := ht
    exact { h with idleByte := fun _ => rfl }
  | setTimeout v =>
    obtain ⟨_, _, rfl⟩ := hs
    obtain ⟨_, _, rfl⟩ := ht
    exact { h with timeoutUs := fun _ => rfl }
  | setClockRole r =>
    obtain ⟨_, _, rfl⟩ := hs
    obtain ⟨_, _, rfl⟩ := ht
    exact { h.clearCount with }
  | setSpeed p =>
    obtain ⟨_, _, rfl⟩ := hs
    obtain ⟨_, _, rfl⟩ := ht
    exact { h with }
  | alloc r x a q =>
    obtain ⟨_, _, _, rfl⟩ := hs
    obtain ⟨_, _, _, rfl⟩ := ht
    exact h.allocate r x q
  | free =>
    obtain ⟨_, _, rfl⟩ := hs
    obtain ⟨_, _, rfl⟩ := ht
    exact h.release
  | cbRet =>
    obtain ⟨_, hp, rfl⟩ := hs
    obtain ⟨_, _, rfl⟩ := ht
    exact h.leaveCallback (by simp [hp])

/-- Alike states share the entry of the acceptance table, and whatever it says keeps them alike. -/
theorem exec_alike (h : s.Alike t) (hs : exec i s = .next s') : ∃ t', exec i t = .next t' ∧ s'.Alike t' := by
  by_cases hf : s.fault = .none
  · have has := exec_answers i hf
    have hat := exec_answers i (h.fault ▸ hf : t.fault = .none)
    rw [verdict_congr i h.phase h.irqOk, hs] at has
    generalize verdict i t = w at has hat
    cases w with
    | execute =>
      obtain ⟨_, ⟨⟩, hes⟩ := has
      obtain ⟨t', e, het⟩ := hat
      exact ⟨t', e, effect_alike h hes het⟩
    | ignore | hold =>
      obtain ⟨_, ⟨⟩⟩ := has
      obtain ⟨_, e⟩ := hat
      exact ⟨t, e, h⟩
    | fault c =>
      obtain ⟨_, ⟨⟩⟩ := has
      obtain ⟨_, e⟩ := hat
      exact ⟨t.withFault c, e, h.withFault c⟩
  · rw [exec_faulted i hf] at hs
    cases hs
    exact ⟨t, exec_faulted i (h.fault ▸ hf), h⟩

/-- The same port gives the same command, and it runs alike. -/
theorem step_alike (h : s.Alike t) (hs : step s = .next s') : ∃ t', step t = .next t' ∧ s'.Alike t' := by
  by_cases hf : s.fault = .none
  · have hf' : t.fault = .none := h.fault ▸ hf
    have htake : takeCommand t.holdsEdges t.port = takeCommand s.holdsEdges s.port := by
      rw [h.holdsEdges_eq, h.port]
    cases hc : takeCommand s.holdsEdges s.port with
    | none =>
      rw [step_of_take_none hc, whenClear_next_self] at hs
      cases hs
      exact ⟨t, by rw [step_of_take_none (htake.trans hc), whenClear_next_self], h⟩
    | some taken =>
      obtain ⟨c, rest⟩ := taken
      cases hd : decode c with
      | ok i =>
        rw [step_of_take_legal hc hd, whenClear_good hf] at hs
        rw [step_of_take_legal (htake.trans hc) hd, whenClear_good hf']
        exact exec_alike (h.withPort rest) hs
      | error e =>
        rw [step_of_take_illegal hc hd, whenClear_good hf] at hs
        rw [step_of_take_illegal (htake.trans hc) hd, whenClear_good hf']
        cases hs
        exact ⟨_, rfl, (h.withPort rest).withFault _⟩
  · rw [step_faulted hf] at hs
    cases hs
    exact ⟨t, step_faulted (h.fault ▸ hf), h⟩

theorem core_step_eq (s : State) : core.step s = step s := rfl

theorem run_succ_next (k : Nat) (s s' : State) :
    Host.Core.run core (k + 1) s = .next s' ↔ ∃ u : State, step s = .next u ∧ Host.Core.run core k u = .next s' := by
  simp only [Host.Core.run, core_step_eq]
  cases h : step s with
  | next u => simp
  | fault r => simp
  | refused r => simp

/-- Any number of steps keeps states alike. -/
theorem run_alike (k : Nat) (h : s.Alike t) (hs : Host.Core.run core k s = .next s') :
    ∃ t' : State, Host.Core.run core k t = .next t' ∧ s'.Alike t' := by
  induction k generalizing s t with
  | zero =>
    cases hs
    exact ⟨t, rfl, h⟩
  | succ k ih =>
    obtain ⟨s₁, hs₁, hrun⟩ := (run_succ_next k s s').mp hs
    obtain ⟨t₁, ht₁, h₁⟩ := step_alike h hs₁
    obtain ⟨t', ht', h'⟩ := ih h₁ hrun
    exact ⟨t', (run_succ_next k t t').mpr ⟨t₁, ht₁, ht'⟩, h'⟩

/-- Settles O45: a step takes the same command from both states, and each operation keeps them alike. -/
theorem everyStepKeepsStatesAlike : Obligations.EveryStepKeepsStatesAlike :=
  fun _ _ _ h hs => step_alike h hs

/-- Settles O46: alike states have the same history, fault register and serial-out level, and a run keeps them alike. -/
theorem unobservableStateNeverShows : Obligations.UnobservableStateNeverShows := by
  intro k s t s' h hs
  obtain ⟨t', ht', h'⟩ := run_alike k h hs
  exact ⟨t', ht', h'.history.symm, h'.fault.symm, h'.soutQ.symm⟩

end Sys2Proof.Machine
end

section
/-! Runs of commands: which samples stand in `in_accum`, and where a pending byte comes from. -/

namespace Sys2Proof.Machine

variable {i : Instr} {is : List Instr} {s t u : State} {b : Bool} {now : Time} {bs : List Bool}

/-! ### Runs, command by command -/

theorem execAll_nil_next : execAll [] s = .next t ↔ s = t := by simp [execAll]

theorem execAll_cons_next :
    execAll (i :: is) s = .next t ↔ ∃ u, exec i s = .next u ∧ execAll is u = .next t := by
  rw [execAll]
  cases h : exec i s with
  | next u => simp
  | fault r => simp
  | refused r => simp

theorem execAll_concat_next (i : Instr) :
    execAll (is ++ [i]) s = .next t ↔ ∃ u, execAll is s = .next u ∧ exec i u = .next t := by
  induction is generalizing s with
  | nil => simp [execAll_cons_next, execAll_nil_next]
  | cons j js ih =>
    simp only [List.cons_append, execAll_cons_next, ih]
    constructor
    · rintro ⟨u, hu, v, hv, ht⟩
      exact ⟨v, ⟨u, hu, hv⟩, ht⟩
    · rintro ⟨v, ⟨u, hu, hv⟩, ht⟩
      exact ⟨u, hu, v, hv, ht⟩

theorem samplesOf_cons (h : exec i s = .next u) : samplesOf (i :: is) s = samplesOf is u ++ sampled i s := by
  rw [samplesOf, h]

theorem execAll_inv (h : s.Inv) (hrun : execAll is s = .next t) : t.Inv := by
  induction is generalizing s with
  | nil =>
    cases hrun
    exact h
  | cons i is ih =>
    obtain ⟨u, hu, ht⟩ := execAll_cons_next.mp hrun
    exact ih (exec_inv h hu) ht

/-! ### The samples in `in_accum` (R31) -/

theorem exec_rise (ha : s.AcceptsEdges) :
    exec (.edgeRise b now) s = .next ((s.resync now).shiftIn b).boundary := onEdge_accepts ha

/-- A command shifts in no sample unless it is an EDGE_RISE that is executed. -/
theorem sampled_cases (i : Instr) (s : State) :
    sampled i s = [] ∨ ∃ b now, i = .edgeRise b now ∧ s.AcceptsEdges := by
  cases i with
  | edgeRise b now =>
    by_cases ha : s.AcceptsEdges
    · exact .inr ⟨b, now, rfl, ha⟩
    · exact .inl (if_neg ha)
  | _ => exact .inl rfl

/-- With a handle, the bits of `in_accum` that `bit_count` covers are the newest of the samples `bs`, as far as those
reach. -/
def State.Holds (s : State) (bs : List Bool) : Prop :=
  s.phase ≠ .unalloc → ∀ k < 8, k < s.bitCount.toNat → k < bs.length → s.inAccum.getLsbD k = bs.getD k false

namespace State.Holds

theorem start (s : State) : s.Holds [] := fun _ _ _ _ hk => absurd hk (by simp)

/-- Nothing is covered between bytes. -/
theorem of_count_zero (h0 : s.bitCount = 0#4) : s.Holds bs := fun _ k _ hk => by simp [h0] at hk

theorem of_unalloc (hp : s.phase = .unalloc) : s.Holds bs := fun hn => absurd hp hn

/-- A command that leaves `in_accum` and `bit_count` of a state with a handle keeps what they hold. -/
theorem frame (h : s.Holds bs) (hp : s.phase ≠ .unalloc) (hacc : t.inAccum = s.inAccum) (hn : t.bitCount = s.bitCount) :
    t.Holds bs := by
  intro _
  rw [hacc, hn]
  exact h hp

theorem resync (h : s.Holds bs) (now : Time) : (s.resync now).Holds bs := by
  by_cases hs : stale now s.lastEdgeTime s.timeoutUs = true
  · exact of_count_zero (by simp [hs])
  · rw [resync_timely hs]
    exact h

/-- The sample shifted in becomes bit 0 and the bits held move up by one (R61). -/
theorem shiftIn (h : s.Holds bs) (b : Bool) : (s.shiftIn b).Holds (b :: bs) := by
  intro hp k hk8 hk hlen
  cases k with
  | zero => exact shiftedIn_getLsbD_zero s.inAccum b
  | succ k =>
    have hold := h hp k (by omega) (lt_of_succ_lt_count hk) (by simpa using hlen)
    rw [State.shiftIn_inAccum, shiftedIn_getLsbD_succ, hold]
    simp [hk8]

theorem rise (h : s.Holds bs) (b : Bool) (now : Time) :
    ((s.resync now).shiftIn b).boundary.Holds (b :: bs) := by
  rcases rise_cases b now s with ⟨_, e⟩ | ⟨_, _, e⟩ <;> rw [e]
  · exact (h.resync now).shiftIn b
  · exact of_count_zero (by simp)

theorem effect (h : s.Holds bs) (he : Effect i s t) : t.Holds (sampled i s ++ bs) := by
  cases i with
  | edgeRise b now =>
    obtain ⟨ha, rfl⟩ := he
    rw [sampled, if_pos ha]
    exact h.rise b now
  | edgeFall b now =>
    obtain ⟨⟨_, hp, _⟩, rfl⟩ := he
    exact h.frame (by simp [hp]) rfl rfl
  | submit v =>
    obtain ⟨_, hp, rfl⟩ := he
    split <;> exact h.frame hp rfl rfl
  | setIdleByte v | setTimeout v | setSpeed v =>
    obtain ⟨_, hp, rfl⟩ := he
    exact h.frame hp rfl rfl
  | setClockRole r =>
    obtain ⟨_, _, rfl⟩ := he
    exact of_count_zero rfl
  | alloc r x a q =>
    obtain ⟨_, _, _, rfl⟩ := he
    exact of_count_zero rfl
  | free =>
    obtain ⟨_, _, rfl⟩ := he
    exact of_unalloc rfl
  | cbRet =>
    obtain ⟨_, hp, rfl⟩ := he
    exact h.frame (by simp [hp]) rfl rfl

theorem exec_next (h : s.Holds bs) (hs : exec i s = .next t) : t.Holds (sampled i s ++ bs) := by
  rcases sampled_cases i s with hno | ⟨b, now, rfl, ha⟩
  · rcases exec_cases hs with rfl | ⟨_, c, _, rfl⟩ | he
    · rw [hno]
      exact h
    · rw [hno]
      exact h
    · exact h.effect he
  · obtain rfl : ((s.resync now).shiftIn b).boundary = t := by simpa [exec_rise ha] using hs
    exact h.effect ⟨ha, rfl⟩

/-- A run from a state that holds `bs` puts its own samples, the newer ones, before them. -/
theorem execAll_next (h : s.Holds bs) (hrun : execAll is s = .next t) : t.Holds (samplesOf is s ++ bs) := by
  induction is generalizing s bs with
  | nil =>
    cases hrun
    exact h
  | cons i is ih =>
    obtain ⟨u, hu, ht⟩ := execAll_cons_next.mp hrun
    rw [samplesOf_cons hu, List.append_assoc]
    exact ih (h.exec_next hu) ht

end State.Holds

/-- Seven samples held and one shifted in make the byte of the newest eight. -/
theorem byteOfSamples_eq (h : t.Holds bs) (hp : t.phase ≠ .unalloc) (h7 : t.bitCount = 7#4) (hlen : 7 ≤ bs.length)
    (b : Bool) : shiftedIn t.inAccum b = byteOfSamples (b :: bs) := by
  refine BitVec.eq_of_getLsbD_eq fun k hk => ?_
  have hbyte : (byteOfSamples (b :: bs)).getLsbD k = (b :: bs).getD k false := by
    simp [byteOfSamples, hk]
  rw [hbyte]
  cases k with
  | zero => exact shiftedIn_getLsbD_zero t.inAccum b
  | succ k =>
    have hcount : k < t.bitCount.toNat := by
      rw [h7]
      exact Nat.lt_of_succ_lt_succ hk
    rw [shiftedIn_getLsbD_succ, h hp k (by omega) hcount (by omega)]
    simp [hk]

/-- Settles O43: a byte is completed at `bit_count` = 7, where `in_accum` holds the seven newest samples of the run. -/
theorem completedByteIsTheLastEightSamples : Obligations.CompletedByteIsTheLastEightSamples := by
  intro is b now s t u hrun ha hrise hu hlen
  obtain ⟨_, hp, _⟩ := id ha
  have hheld : t.Holds (samplesOf is s) := by simpa using (State.Holds.start s).execAll_next hrun
  obtain rfl : ((t.resync now).shiftIn b).boundary = u := by simpa [exec_rise ha] using hrise
  rcases rise_cases b now t with ⟨_, e⟩ | ⟨h7, htimely, e⟩
  · simp [e, hp] at hu
  · rw [e, ← byteOfSamples_eq hheld (by simp [hp]) h7 hlen b, resync_timely htimely]
    simp

/-! ### Where a pending byte comes from (R32) -/

/-- The command is none of SUBMIT, FREE and ALLOC, which write `out_pending` and set or lose its flag. -/
abbrev NoSlotWriter (i : Instr) : Prop :=
  (∀ w, i ≠ .submit w) ∧ i ≠ .free ∧ ∀ r x a q, i ≠ .alloc r x a q

/-- The run `is` from `s` splits at a SUBMIT executed mid-byte in READY, whose value is the one pending in `t`; nothing
after it writes the slot or completes a byte. -/
def QueuedBy (is : List Instr) (s t : State) : Prop :=
  ∃ before v after m, is = before ++ .submit v :: after ∧ execAll before s = .next m ∧ m.phase = .ready ∧
    m.bitCount ≠ 0#4 ∧ t.outPending = v ∧ callbacksOf t.history = callbacksOf m.history ∧
    ∀ i ∈ after, NoSlotWriter i

/-- A command that is no SUBMIT, FREE or ALLOC, keeps the slot and completes no byte. -/
structure KeepsSlot (i : Instr) (s t : State) : Prop where
  phase : s.phase ≠ .unalloc
  valid : t.outPendingValid = s.outPendingValid
  pending : t.outPending = s.outPending
  callbacks : callbacksOf t.history = callbacksOf s.history
  noWriter : NoSlotWriter i

theorem QueuedBy.concat (h : QueuedBy is s u) (hk : KeepsSlot i u t) : QueuedBy (is ++ [i]) s t := by
  obtain ⟨before, v, after, m, rfl, hrun, hp, h0, hv, hc, hafter⟩ := h
  refine ⟨before, v, after ++ [i], m, by simp, hrun, hp, h0, hk.pending.trans hv, hk.callbacks.trans hc, fun j hj => ?_⟩
  rcases List.mem_append.mp hj with hj | hj
  · exact hafter j hj
  · obtain rfl : j = i := by simpa using hj
    exact hk.noWriter

theorem callbacksOf_drive (l : List Event) (b : Bool) : callbacksOf (l ++ [.drive b]) = callbacksOf l := by
  simp [callbacksOf]

theorem noSlotWriter_of_isEdge (h : isEdge i = true) : NoSlotWriter i := by
  cases i with
  | edgeRise b now | edgeFall b now => simp [NoSlotWriter]
  | _ => cases h

/-- An executed command after which a byte is pending, with a handle, is a SUBMIT mid-byte or keeps the slot: at a byte
boundary, by a SUBMIT between bytes and by ALLOC the flag is cleared. -/
theorem effect_pending (he : Effect i s t) (hp : t.phase ≠ .unalloc) (hv : t.outPendingValid = true) :
    (∃ v, i = .submit v ∧ s.phase ≠ .unalloc ∧ s.bitCount ≠ 0#4 ∧ t = s.queueByte v) ∨ KeepsSlot i s t := by
  cases i with
  | edgeRise b now =>
    obtain ⟨⟨_, hr, _⟩, rfl⟩ := he
    rcases rise_cases b now s with ⟨_, e⟩ | ⟨_, _, e⟩
    · rw [e]
      exact .inr ⟨by simp [hr], by simp, by simp, by simp, by simp [NoSlotWriter]⟩
    · simp [e] at hv
  | edgeFall b now =>
    obtain ⟨⟨_, hr, _⟩, rfl⟩ := he
    exact .inr ⟨by simp [hr], rfl, rfl, callbacksOf_drive _ _, by simp [NoSlotWriter]⟩
  | submit v =>
    obtain ⟨_, hn, rfl⟩ := he
    by_cases h0 : s.bitCount = 0#4
    · simp [h0] at hv
    · exact .inl ⟨v, rfl, hn, h0, if_neg h0⟩
  | setIdleByte v | setTimeout v | setClockRole r | setSpeed p =>
    obtain ⟨_, hn, rfl⟩ := he
    exact .inr ⟨hn, rfl, rfl, rfl, by simp [NoSlotWriter]⟩
  | alloc r x a q =>
    obtain ⟨_, _, _, rfl⟩ := he
    simp at hv
  | free =>
    obtain ⟨_, _, rfl⟩ := he
    simp at hp
  | cbRet =>
    obtain ⟨_, hc, rfl⟩ := he
    exact .inr ⟨by simp [hc], rfl, rfl, rfl, by simp [NoSlotWriter]⟩

/-- The claim of R32 for a run built up at its end, where the last writer of the slot stands. -/
theorem queuedBy_of_pending (hinv : s.Inv) (h0 : s.outPendingValid = false) (hrun : execAll is s = .next t)
    (hf : t.fault = .none) (hp : t.phase ≠ .unalloc) (hv : t.outPendingValid = true) : QueuedBy is s t := by
  induction is using List.reverseRecOn generalizing t with
  | nil =>
    cases hrun
    simp [h0] at hv
  | append_singleton is i ih =>
    obtain ⟨u, hu, hi⟩ := (execAll_concat_next i).mp hrun
    obtain ⟨hfu, he | ⟨hedge, rfl⟩⟩ := exec_good hi hf
    · rcases effect_pending he hp hv with ⟨v, rfl, hn, hmid, rfl⟩ | hk
      · obtain ⟨_, hcallback, _⟩ := execAll_inv hinv hu
        have hready : u.phase = .ready := by
          cases hpu : u.phase with
          | unalloc => exact absurd hpu hn
          | ready => rfl
          | callback =>
            obtain ⟨hzero, _, _⟩ := hcallback hpu
            exact absurd hzero hmid
        exact ⟨is, v, [], u, rfl, hu, hready, hmid, rfl, rfl, by simp⟩
      · exact (ih hu hfu hk.phase (hk.valid ▸ hv)).concat hk
    · exact (ih hu hf hp hv).concat ⟨hp, rfl, rfl, rfl, noSlotWriter_of_isEdge hedge⟩

/-- Settles O44: the last writer of the slot is found by induction on the run from its end. -/
theorem pendingByteComesFromAMidByteSubmit : Obligations.PendingByteComesFromAMidByteSubmit :=
  fun _ _ _ hinv h0 hrun hf hp hv => queuedBy_of_pending hinv h0 hrun hf hp hv

end Sys2Proof.Machine
end

section
/-! The rules of 20_memory: the order in which the block takes the waiting commands, that a command answers in one step and
does not see which others wait, and the order of bits and bytes on the wire and on a transport. -/

namespace Sys2Proof.Machine

variable {i : Instr} {s t : State} {c : Command} {held rest : List Command}

/-! ### A step past the held commands (R39, R58, R71) -/

/-- The command taken past the held ones runs, and they stay in order before the rest. -/
theorem step_past_legal (hf : s.fault = .none) (hh : s.HoldsBefore held) (hport : s.port = held ++ c :: rest)
    (hd : decode c = .ok i) (hi : (s.holdsEdges && isEdge i) = false) :
    step s = exec i (s.withPort (held ++ rest)) := by
  have htake : takeCommand s.holdsEdges s.port = some (c, held ++ rest) := by
    rw [hport]
    exact takeCommand_past (held_of_holdsBefore hh) (by rwa [isEdgeCommand_ok hd])
  rw [step_of_take_legal htake hd, whenClear_good hf]

/-- An illegal word is never held: behind held EDGEs too it faults, and they stay. -/
theorem step_past_illegal {e : DecodeError} (hf : s.fault = .none) (hh : s.HoldsBefore held)
    (hport : s.port = held ++ c :: rest) (hd : decode c = .error e) :
    step s = .next ((s.withPort (held ++ rest)).withFault .illegalCommand) := by
  have htake : takeCommand s.holdsEdges s.port = some (c, held ++ rest) := by
    rw [hport]
    exact takeCommand_past (held_of_holdsBefore hh) (by rw [isEdgeCommand_error hd, Bool.and_false])
  rw [step_of_take_illegal htake hd, whenClear_good hf, raise_eq]

/-- With nothing but held commands the block waits. -/
theorem step_held (hh : s.HoldsBefore s.port) : step s = .next s := by
  rw [step_of_take_none (takeCommand_none (held_of_holdsBefore hh)), whenClear_next_self]

/-! ### A command that is executed -/

/-- Where a command has its effect, that is its answer. -/
theorem exec_of_effect (h : Effect i s t) : exec i s = .next t := by
  cases i with
  | edgeRise b now | edgeFall b now =>
    obtain ⟨ha, rfl⟩ := h
    exact onEdge_accepts ha
  | submit v | setIdleByte v | setTimeout v | setClockRole r | setSpeed p =>
    obtain ⟨hf, hp, rfl⟩ := h
    exact onHandle_executes hf hp
  | alloc r x a q =>
    obtain ⟨hf, hp, rfl, rfl⟩ := h
    simp [exec, execAlloc, whenClear_good hf, hp]
  | free =>
    obtain ⟨hf, hp, rfl⟩ := h
    simp [exec, execFree, whenClear_good hf, hp]
  | cbRet =>
    obtain ⟨hf, hp, rfl⟩ := h
    simp [exec, execCbRet, whenClear_good hf, hp]

/-! ### Totality (R41) -/

theorem exec_total (i : Instr) (s : State) : ∃ t, exec i s = .next t := by
  by_cases hf : s.fault = .none
  · have ha := exec_answers i hf
    generalize verdict i s = w at ha
    cases w with
    | execute =>
      obtain ⟨t, e, _⟩ := ha
      exact ⟨t, e⟩
    | ignore | hold | fault c =>
      obtain ⟨_, e⟩ := ha
      exact ⟨_, e⟩
  · exact ⟨s, exec_faulted i hf⟩

theorem step_total (s : State) : ∃ t, step s = .next t := by
  by_cases hf : s.fault = .none
  · cases htake : takeCommand s.holdsEdges s.port with
    | none => exact ⟨s, by rw [step_of_take_none htake, whenClear_next_self]⟩
    | some taken =>
      obtain ⟨c, rest⟩ := taken
      cases hd : decode c with
      | ok i =>
        rw [step_of_take_legal htake hd, whenClear_good hf]
        exact exec_total i _
      | error e => exact ⟨_, by rw [step_of_take_illegal htake hd, whenClear_good hf, raise_eq]⟩
  · exact ⟨s, step_faulted hf⟩

/-! ### No operation of a command sees the port (R37, R39) -/

theorem resync_withPort (s : State) (now : Time) (p : List Command) :
    (s.withPort p).resync now = (s.resync now).withPort p := by
  by_cases hs : stale now s.lastEdgeTime s.timeoutUs = true
  · rw [resync_stale hs, resync_stale (s := s.withPort p) hs]
    rfl
  · rw [resync_timely hs, resync_timely (s := s.withPort p) hs]
    rfl

theorem promote_withPort (s : State) (p : List Command) : (s.withPort p).promote = s.promote.withPort p := by
  by_cases hv : s.outPendingValid = true
  · rw [promote_pending hv, promote_pending (s := s.withPort p) hv]
    rfl
  · rw [promote_idle hv, promote_idle (s := s.withPort p) hv]
    rfl

theorem boundary_withPort (s : State) (p : List Command) : (s.withPort p).boundary = s.boundary.withPort p := by
  by_cases h8 : s.bitCount = 8#4
  · rw [boundary_at h8, boundary_at (s := s.withPort p) h8]
    exact congrArg State.enterCallback (promote_withPort s.clearCount p)
  · rw [boundary_inside h8, boundary_inside (s := s.withPort p) h8]

theorem rise_withPort (s : State) (b : Bool) (now : Time) (p : List Command) :
    (((s.withPort p).resync now).shiftIn b).boundary = ((s.resync now).shiftIn b).boundary.withPort p := by
  rw [resync_withPort]
  exact boundary_withPort ((s.resync now).shiftIn b) p

theorem effect_withPort (h : Effect i s t) (p : List Command) : Effect i (s.withPort p) (t.withPort p) := by
  cases i with
  | edgeRise b now =>
    obtain ⟨ha, rfl⟩ := h
    exact ⟨ha, (rise_withPort s b now p).symm⟩
  | edgeFall b now =>
    obtain ⟨ha, rfl⟩ := h
    exact ⟨ha, rfl⟩
  | submit v =>
    obtain ⟨hf, hp, rfl⟩ := h
    exact ⟨hf, hp, apply_ite (State.withPort · p) _ _ _⟩
  | alloc r x a q =>
    obtain ⟨hf, hp, ha, rfl⟩ := h
    exact ⟨hf, hp, ha, rfl⟩
  | setIdleByte v | setTimeout v | setClockRole r | setSpeed v | free | cbRet =>
    obtain ⟨hf, hp, rfl⟩ := h
    exact ⟨hf, hp, rfl⟩

/-- The acceptance table does not read the port, and neither does what its entry says. -/
theorem exec_withPort (h : exec i s = .next t) (p : List Command) :
    exec i (s.withPort p) = .next (t.withPort p) := by
  by_cases hf : s.fault = .none
  · have ha := exec_answers i hf
    have hap := exec_answers (s := s.withPort p) i hf
    rw [h, verdict_congr (s := s) (t := s.withPort p) i rfl rfl] at ha
    generalize verdict i (s.withPort p) = w at ha hap
    cases w with
    | execute =>
      obtain ⟨_, ⟨⟩, he⟩ := ha
      exact exec_of_effect (effect_withPort he p)
    | ignore | hold | fault c =>
      obtain ⟨_, ⟨⟩⟩ := ha
      obtain ⟨_, e⟩ := hap
      exact e
  · rw [exec_faulted i hf] at h
    cases h
    exact exec_faulted i hf

/-! ### Falling edges (R35, R65, R100) -/

theorem drivenBit_lt {k : Nat} (v : Byte) (fill : Bool) (h : k < 8) : drivenBit v fill k = v.getLsbD (7 - k) := if_pos h

theorem drivenBit_ge {k : Nat} (v : Byte) (fill : Bool) (h : 8 ≤ k) : drivenBit v fill k = fill := if_neg (by omega)

/-- The outbound shift is the inbound one with `OUT_FILL` for the sample. -/
theorem shiftedOut_eq_shiftedIn (v : Byte) (fill : Bool) : shiftedOut v fill = shiftedIn v fill := rfl

/-- A run of falling edges drives one bit for each, whatever their payload bit and time. -/
theorem execAll_falls (falls : List (Bool × Time)) (ha : s.AcceptsEdges) :
    execAll (falls.map (fun e => .edgeFall e.1 e.2)) s = .next (State.driveBit^[falls.length] s) := by
  induction falls generalizing s with
  | nil => rfl
  | cons e es ih =>
    exact execAll_cons_next.mpr ⟨s.driveBit, onEdge_accepts ha, ih (s := s.driveBit) ha⟩

theorem driveBits_frame (n : Nat) (s : State) :
    State.driveBit^[n] s = { s with
      soutQ := (State.driveBit^[n] s).soutQ
      outActive := (State.driveBit^[n] s).outActive
      history := (State.driveBit^[n] s).history } := by
  induction n generalizing s with
  | zero => rfl
  | succ n ih => exact ih s.driveBit

theorem driveBits_params (n : Nat) (s : State) : (State.driveBit^[n] s).params = s.params := by
  rw [driveBits_frame]

/-- After `n` edges `out_active` holds, MSB first, the bits that the next eight edges drive. -/
theorem driveBits_outActive (n : Nat) (s : State) {k : Nat} (hk : k < 8) :
    (State.driveBit^[n] s).outActive.getLsbD (7 - k) = drivenBit s.outActive s.params.outFill (n + k) := by
  induction n generalizing k with
  | zero => rw [Nat.zero_add, drivenBit_lt _ _ hk, Function.iterate_zero_apply]
  | succ n ih =>
    rw [Function.iterate_succ_apply', State.driveBit_outActive, driveBits_params, shiftedOut_eq_shiftedIn]
    rcases Nat.lt_or_ge k 7 with h7 | h7
    · have hbit : 7 - k = 7 - (k + 1) + 1 := by omega
      rw [hbit, shiftedIn_getLsbD_succ, ih (by omega : k + 1 < 8), Nat.add_right_comm n 1 k, Nat.add_assoc]
      simp only [show 7 - (k + 1) + 1 < 8 by omega, decide_true, Bool.true_and]
    · have hbit : 7 - k = 0 := by omega
      rw [hbit, shiftedIn_getLsbD_zero, drivenBit_ge _ _ (by omega)]

/-- The bit at the top after `n` edges is the one the next edge drives. -/
theorem driveBits_topBit (n : Nat) (s : State) :
    topBit (State.driveBit^[n] s).outActive = drivenBit s.outActive s.params.outFill n :=
  driveBits_outActive n s (k := 0) (by omega)

theorem driveBits_soutQ (n : Nat) (s : State) :
    (State.driveBit^[n + 1] s).soutQ = drivenBit s.outActive s.params.outFill n := by
  rw [Function.iterate_succ_apply', State.driveBit_soutQ, driveBits_topBit]

theorem driveBits_history (n : Nat) (s : State) :
    (State.driveBit^[n] s).history =
      s.history ++ (List.range n).map (fun k => .drive (drivenBit s.outActive s.params.outFill k)) := by
  induction n with
  | zero => simp
  | succ n ih =>
    rw [Function.iterate_succ_apply', State.driveBit_history, driveBits_topBit, ih, List.range_succ, List.map_append,
      List.append_assoc, List.map_singleton]

/-! ### The byte transport (R34, R36) -/

theorem ofBytes_of_length_ne {bs : List Byte} (h : bs.length ≠ 8) : ofBytes bs = none := by
  unfold ofBytes
  split
  · exact absurd rfl h
  · rfl

/-- The bytes of a word put together again are the word. -/
theorem ofBytes_toBytes (w : CmdWord) : ofBytes (toBytes w) = some w := by
  refine congrArg some (BitVec.eq_of_getLsbD_eq fun j hj => ?_)
  simp only [BitVec.getLsbD_append, BitVec.getLsbD_extractLsb']
  grind

/-- Byte `k` of the transport counts from the most significant end. -/
theorem toBytes_getElem? (w : CmdWord) {k : Nat} (hk : k < 8) :
    (toBytes w)[k]? = some (w.extractLsb' (56 - 8 * k) 8) := by
  interval_cases k <;> rfl

/-! ### The obligations of 20_memory -/

/-- Settles O10: in CALLBACK the invariant has the handler registered, so the EDGEs are held and the step goes past them. -/
theorem edgesAreHeldDuringTheCallback : Obligations.EdgesAreHeldDuringTheCallback := by
  intro s held rest c hinv hf hp hedges
  obtain ⟨_, hcallback, _⟩ := hinv
  obtain ⟨_, hq, _⟩ := hcallback hp
  have hh : s.HoldsBefore held := .inr ⟨hp, hq, hedges⟩
  refine ⟨fun hport => step_held (hport ▸ hh), fun i hport hd hi => ?_, fun e hport hd => ?_, fun hport hd => ?_⟩
  · exact step_past_legal hf hh hport hd (by rw [hi, Bool.and_false])
  · exact step_past_illegal hf hh hport hd
  · rw [step_past_legal hf hh hport hd (Bool.and_false _)]
    exact exec_of_effect ⟨hf, hp, rfl⟩

/-- Settles O11: each entry of the acceptance table is a next state, and so is a step in which nothing is taken. -/
theorem stepAndExecAreTotal : Obligations.StepAndExecAreTotal :=
  fun s => ⟨step_total s, fun i => exec_total i s⟩

/-- Settles O35: the acceptance table and every effect are the same with another port. -/
theorem commandsDoNotSeeThePort : Obligations.CommandsDoNotSeeThePort :=
  fun _ _ _ p h => exec_withPort h p

/-- Settles O41: the run is an iteration of `driveBit`, described field by field by induction on the number of edges. -/
theorem fallingEdgesDriveMsbFirst : Obligations.FallingEdgesDriveMsbFirst := by
  intro falls s ha
  refine ⟨_, execAll_falls falls ha, driveBits_frame _ s, driveBits_history _ s,
    fun k hk => driveBits_outActive _ s hk, fun hne => ?_⟩
  cases falls with
  | nil => exact absurd rfl hne
  | cons e es => exact driveBits_soutQ es.length s

/-- Settles O6: eight bytes are the word again, and no other number of bytes or of bits is a word. -/
theorem transportIsMostSignificantFirst : Obligations.TransportIsMostSignificantFirst := by
  refine ⟨fun d bs => ⟨fun hlen => ?_, ?_⟩, fun s nbits w hn => ?_⟩
  · rw [decodeBytes, ofBytes_of_length_ne hlen]
  · rintro w rfl
    exact ⟨by rw [decodeBytes, ofBytes_toBytes], fun k hk => toBytes_getElem? w hk⟩
  · rw [decodeTableWord, State.withFetchWord, tableWord_of_other_width w hn]
    exact ⟨rfl, rfl⟩

/-- Settles O9: with no command held before it, the first in the port is the one taken. -/
theorem stepRunsTheDecodedCommand : Obligations.StepRunsTheDecodedCommand := by
  intro s c rest i hf hport hd hfree
  have hi : (s.holdsEdges && isEdge i) = false := by
    cases he : isEdge i with
    | false => exact Bool.and_false _
    | true =>
      by_cases hp : s.phase = .callback
      · simp [State.holdsEdges, hfree he hp]
      · simp [holdsEdges_elsewhere hp]
  exact step_past_legal (held := []) hf (.inl rfl) hport hd hi

end Sys2Proof.Machine
end

section
/-! The encoding of commands: the decoder on the words the encoder writes, the words a decoded command can carry, and the
layouts by the places of their bits in the word. -/

namespace Sys2Proof

variable {op : BitVec 8} {p : BitVec 32} {d : Side} {i : Instr} {w : CmdWord} {c : Command}

/-! ### A payload with no must-be-zero bit set is rebuilt from its operands (R47, R48) -/

theorem edgePayload_fields (h : edgeMbzOf p = 0#30) : edgePayload (sampleOf p) (lvlOf p) = p := by
  have hfields : p = edgeMbzOf p ++ (BitVec.ofBool (sampleOf p) ++ BitVec.ofBool (lvlOf p)) := by
    apply BitVec.eq_of_getLsbD_eq
    intro k hk
    simp only [edgeMbzOf, sampleOf, lvlOf, BitVec.getLsbD_extractLsb', BitVec.getLsbD_append, BitVec.getLsbD_ofBool]
    match k with
    | 0 | 1 => simp
    | k + 2 => simp [show k < 30 by omega, Nat.add_comm 2 k]
  rw [h] at hfields
  exact hfields.symm

theorem bytePayload_fields (h : byteMbzOf p = 0#24) : bytePayload (imm8Of p) = p := by
  rw [bytePayload, ← h]
  exact BitVec.extractLsb'_append_extractLsb'

/-! ### The payload decoders on the payloads the encoder writes -/

theorem decodeEdge_edgePayload (s lvl : Bool) (d : Side) :
    decodeEdge (edgePayload s lvl) d = .ok (if lvl then .edgeRise s d.now else .edgeFall s d.now) := by
  simp [decodeEdge]

theorem decodeByte_bytePayload (v : BitVec 8) (mk : BitVec 8 → Instr) : decodeByte (bytePayload v) mk = .ok (mk v) := by
  simp [decodeByte]

/-- `i` with its side operands read from `d` (R53). -/
def Instr.withSide (d : Side) : Instr → Instr
  | .edgeRise s _ => .edgeRise s d.now
  | .edgeFall s _ => .edgeFall s d.now
  | .alloc r _ _ _ => .alloc r d.ctx d.allocOk d.irqOk
  | .submit v => .submit v
  | .setIdleByte v => .setIdleByte v
  | .setTimeout t => .setTimeout t
  | .setClockRole r => .setClockRole r
  | .setSpeed q => .setSpeed q
  | .free => .free
  | .cbRet => .cbRet

theorem withSide_encodeSide (i : Instr) : i.withSide (encodeSide i) = i := by
  cases i <;> rfl

/-- The word of an instruction decodes to it beside any side inputs, from which its side operands are read. -/
theorem decode_encodeWord (i : Instr) (d : Side) : decode ⟨encodeWord i, d⟩ = .ok (i.withSide d) := by
  cases i with
  | edgeRise s now => exact (decode_mkWord _ _ d).trans (decodeEdge_edgePayload s true d)
  | edgeFall s now => exact (decode_mkWord _ _ d).trans (decodeEdge_edgePayload s false d)
  | submit v | setIdleByte v | setClockRole v | setSpeed v =>
    exact (decode_mkWord _ _ d).trans (decodeByte_bytePayload v _)
  | alloc r x a q =>
    exact (decode_mkWord _ _ d).trans (decodeByte_bytePayload r fun r => .alloc r d.ctx d.allocOk d.irqOk)
  | setTimeout t | free | cbRet => exact decode_mkWord _ _ d

/-! ### The opcode map by the shape of the payload (R46) -/

/-- The opcodes with a byte operand (R48), each with its instruction. -/
def byteRows (d : Side) : List (BitVec 8 × (BitVec 8 → Instr)) :=
  [(0x10#8, .submit), (0x11#8, .setIdleByte), (0x13#8, .setClockRole), (0x14#8, .setSpeed),
    (0x20#8, fun r => .alloc r d.ctx d.allocOk d.irqOk)]

/-- The opcodes with no operand (R50), each with its instruction. -/
def noneRows : List (BitVec 8 × Instr) := [(0x21#8, .free), (0x30#8, .cbRet)]

theorem decodeOp_byteRow (p : BitVec 32) : ∀ row ∈ byteRows d, decodeOp row.1 p d = decodeByte p row.2 := by
  simp [byteRows, decodeOp]

theorem decodeOp_noneRow (p : BitVec 32) (d : Side) : ∀ row ∈ noneRows, decodeOp row.1 p d = decodeNone p row.2 := by
  simp [noneRows, decodeOp]

theorem encodeWord_byteRow (v : BitVec 8) :
    ∀ row ∈ byteRows d, encodeWord (row.2 v) = mkWord row.1 (bytePayload v) := by
  simp [byteRows, encodeWord]

theorem encodeWord_noneRow : ∀ row ∈ noneRows, encodeWord row.2 = mkWord row.1 0#32 := by
  simp [noneRows, encodeWord]

/-- A decoded opcode is EDGE, SET_TIMEOUT, or in one of the two tables. -/
theorem decodeOp_ok_cases (h : decodeOp op p d = .ok i) :
    (op = 0x01#8 ∧ decodeEdge p d = .ok i) ∨ (op = 0x12#8 ∧ i = .setTimeout p) ∨
    (∃ mk, (op, mk) ∈ byteRows d ∧ decodeByte p mk = .ok i) ∨ (∃ j, (op, j) ∈ noneRows ∧ decodeNone p j = .ok i) := by
  have hop {n : Nat} (e : op.toNat = n) : op = BitVec.ofNat 8 n := by rw [← e, BitVec.ofNat_toNat, BitVec.setWidth_eq]
  unfold decodeOp at h
  split at h
  case h_1 e => exact .inl ⟨hop e, h⟩
  case h_4 e => exact .inr (.inl ⟨hop e, (Except.ok.inj h).symm⟩)
  case h_2 e | h_3 e | h_5 e | h_6 e | h_7 e =>
    refine .inr (.inr (.inl ⟨_, ?_, h⟩))
    simp [hop e, byteRows]
  case h_8 e | h_9 e =>
    refine .inr (.inr (.inr ⟨_, ?_, h⟩))
    simp [hop e, noneRows]
  case h_10 => cases h

/-! ### The word of a decoded command (R45, R52) -/

theorem encodeWord_of_decodeEdge (h : decodeEdge p d = .ok i) : encodeWord i = mkWord 0x01#8 p := by
  unfold decodeEdge at h
  split at h
  · rename_i hmbz
    cases h
    rw [← edgePayload_fields hmbz, lvlOf_edgePayload, sampleOf_edgePayload]
    cases lvlOf p <;> rfl
  · cases h

theorem decodeByte_ok {mk : BitVec 8 → Instr} (h : decodeByte p mk = .ok i) : ∃ v, p = bytePayload v ∧ i = mk v := by
  unfold decodeByte at h
  split at h
  · rename_i hmbz
    exact ⟨imm8Of p, (bytePayload_fields hmbz).symm, (Except.ok.inj h).symm⟩
  · cases h

theorem decodeNone_ok {j : Instr} (h : decodeNone p j = .ok i) : p = 0#32 ∧ i = j := by
  unfold decodeNone at h
  split at h
  · rename_i hp
    exact ⟨hp, (Except.ok.inj h).symm⟩
  · cases h

theorem encodeWord_of_decodeOp (h : decodeOp op p d = .ok i) : encodeWord i = mkWord op p := by
  rcases decodeOp_ok_cases h with ⟨rfl, he⟩ | ⟨rfl, rfl⟩ | ⟨mk, hrow, hb⟩ | ⟨j, hrow, hn⟩
  · exact encodeWord_of_decodeEdge he
  · rfl
  · obtain ⟨v, rfl, rfl⟩ := decodeByte_ok hb
    exact encodeWord_byteRow v _ hrow
  · obtain ⟨rfl, rfl⟩ := decodeNone_ok hn
    exact encodeWord_noneRow _ hrow

theorem encodeWord_of_decode (h : decode c = .ok i) : encodeWord i = c.word := by
  unfold decode at h
  split at h
  · rename_i hrsv
    rw [encodeWord_of_decodeOp h, mkWord_fields _ hrsv]
  · cases h

/-! ### The fields of the payload by their places in the word (R44, R47, R48) -/

theorem edgeMbzOf_payloadOf (w : CmdWord) : edgeMbzOf (payloadOf w) = w.extractLsb' 2 30 :=
  BitVec.extractLsb'_extractLsb'_of_le (by decide)

theorem byteMbzOf_payloadOf (w : CmdWord) : byteMbzOf (payloadOf w) = w.extractLsb' 8 24 :=
  BitVec.extractLsb'_extractLsb'_of_le (by decide)

theorem imm8Of_payloadOf (w : CmdWord) : imm8Of (payloadOf w) = w.extractLsb' 0 8 :=
  BitVec.extractLsb'_extractLsb'_of_le (by decide)

theorem lvlOf_payloadOf (w : CmdWord) : lvlOf (payloadOf w) = w.getLsbD 0 := by
  simp [lvlOf, payloadOf]

theorem sampleOf_payloadOf (w : CmdWord) : sampleOf (payloadOf w) = w.getLsbD 1 := by
  simp [sampleOf, payloadOf]

/-! ### Each layout, for a word whose reserved bits are 0 -/

theorem decode_of_opcode (d : Side) (hr : w.extractLsb' 32 24 = 0#24) (ho : w.extractLsb' 56 8 = op) :
    decode ⟨w, d⟩ = decodeOp op (payloadOf w) d :=
  decode_of_fields d hr ho rfl

theorem decode_edge_layout (d : Side) (hr : w.extractLsb' 32 24 = 0#24) (ho : w.extractLsb' 56 8 = 0x01#8) :
    decode ⟨w, d⟩ = if w.extractLsb' 2 30 ≠ 0#30 then .error .payloadBits
      else if w.getLsbD 0 then .ok (.edgeRise (w.getLsbD 1) d.now) else .ok (.edgeFall (w.getLsbD 1) d.now) := by
  rw [decode_of_opcode d hr ho, ite_not, ← edgeMbzOf_payloadOf, ← lvlOf_payloadOf, ← sampleOf_payloadOf,
    ← apply_ite Except.ok]
  rfl

theorem decode_timeout_layout (d : Side) (hr : w.extractLsb' 32 24 = 0#24) (ho : w.extractLsb' 56 8 = 0x12#8) :
    decode ⟨w, d⟩ = .ok (.setTimeout (w.extractLsb' 0 32)) :=
  decode_of_opcode d hr ho

theorem decode_byte_layout {mk : BitVec 8 → Instr} (hrow : (op, mk) ∈ byteRows d) (hr : w.extractLsb' 32 24 = 0#24)
    (ho : w.extractLsb' 56 8 = op) :
    decode ⟨w, d⟩ = if w.extractLsb' 8 24 ≠ 0#24 then .error .payloadBits else .ok (mk (w.extractLsb' 0 8)) := by
  rw [decode_of_opcode d hr ho, decodeOp_byteRow _ _ hrow, ite_not, ← byteMbzOf_payloadOf, ← imm8Of_payloadOf]
  rfl

theorem decode_none_layout (d : Side) (hrow : (op, i) ∈ noneRows) (hr : w.extractLsb' 32 24 = 0#24)
    (ho : w.extractLsb' 56 8 = op) :
    decode ⟨w, d⟩ = if w.extractLsb' 0 32 ≠ 0#32 then .error .payloadBits else .ok i := by
  rw [decode_of_opcode d hr ho, decodeOp_noneRow _ _ _ hrow, ite_not]
  rfl

/-! ### Obligations of 30_encoding: words and instructions -/

/-- Settles O1: the encoder's word decodes with the side operands the encoder puts beside it. -/
theorem decodeOfEncode : Obligations.DecodeOfEncode := fun i => by
  rw [encode, decode_encodeWord, withSide_encodeSide]

/-- Settles O2: each payload that decodes is rebuilt from its operands, and the word from its fields. -/
theorem encodeOfDecode : Obligations.EncodeOfDecode := fun _ _ h => encodeWord_of_decode h

/-- Settles O4: the opcode map by the shape of the payload, with the fields read at their places in the word. -/
theorem payloadLayouts : Obligations.PayloadLayouts :=
  ⟨fun _ d hr => ⟨decode_edge_layout d hr, decode_timeout_layout d hr, fun _ _ hrow => decode_byte_layout hrow hr,
    fun _ _ hrow => decode_none_layout d hrow hr⟩, fun _ _ _ _ => rfl⟩

/-- Settles O5: each word is the encoder's word of the instruction named. -/
theorem specWordsDecode : Obligations.SpecWordsDecode := fun d =>
  ⟨decode_encodeWord (.edgeRise false d.now) d, decode_encodeWord (.edgeRise true d.now) d,
    decode_encodeWord (.edgeFall false d.now) d, decode_encodeWord (.edgeFall true d.now) d,
    decode_encodeWord (.submit 0x81#8) d, decode_encodeWord (.setIdleByte 0x42#8) d,
    decode_encodeWord (.setTimeout 100#32) d, decode_encodeWord (.setClockRole 0x01#8) d,
    decode_encodeWord (.setSpeed 0x02#8) d, decode_encodeWord (.alloc 0x03#8 d.ctx d.allocOk d.irqOk) d,
    decode_encodeWord .free d, decode_encodeWord .cbRet d⟩

end Sys2Proof
end

section
/-! R51: the legal words are those that decode, and an illegal word faults wherever the block takes it. -/

namespace Sys2Proof.Machine

variable {i : Instr} {s t : State} {c : Command} {w : CmdWord}

/-! ### The legal words are those that decode -/

/-- The legal words in terms of the fields the decoder reads. -/
theorem legalBits_iff_fields (w : CmdWord) : LegalBits w ↔ rsvOf w = 0#24 ∧
    ((opOf w = 0x01#8 ∧ edgeMbzOf (payloadOf w) = 0#30) ∨
     (opOf w ∈ [0x10#8, 0x11#8, 0x13#8, 0x14#8, 0x20#8] ∧ byteMbzOf (payloadOf w) = 0#24) ∨
     opOf w = 0x12#8 ∨ (opOf w ∈ [0x21#8, 0x30#8] ∧ payloadOf w = 0#32)) := by
  rw [edgeMbzOf_payloadOf, byteMbzOf_payloadOf]
  exact Iff.rfl

theorem legalBits_encodeWord (i : Instr) : LegalBits (encodeWord i) := by
  rw [legalBits_iff_fields]
  cases i <;> simp [encodeWord]

theorem legalBits_of_decode (h : decode c = .ok i) : LegalBits c.word :=
  encodeWord_of_decode h ▸ legalBits_encodeWord i

theorem exists_byteRow {op : BitVec 8} (d : Side) (h : op ∈ [0x10#8, 0x11#8, 0x13#8, 0x14#8, 0x20#8]) :
    ∃ mk, (op, mk) ∈ byteRows d := by
  obtain ⟨⟨_, mk⟩, hrow, rfl⟩ := List.mem_map.mp (show op ∈ (byteRows d).map Prod.fst from h)
  exact ⟨mk, hrow⟩

theorem exists_noneRow {op : BitVec 8} (h : op ∈ [0x21#8, 0x30#8]) : ∃ i, (op, i) ∈ noneRows := by
  obtain ⟨⟨_, i⟩, hrow, rfl⟩ := List.mem_map.mp (show op ∈ noneRows.map Prod.fst from h)
  exact ⟨i, hrow⟩

theorem decode_of_legalBits (d : Side) (h : LegalBits w) : ∃ i, decode ⟨w, d⟩ = .ok i := by
  obtain ⟨hr, ⟨ho, hz⟩ | ⟨ho, hz⟩ | ho | ⟨ho, hz⟩⟩ := h
  · rw [decode_edge_layout d hr ho, if_neg (not_not.mpr hz), ← apply_ite Except.ok]
    exact ⟨_, rfl⟩
  · obtain ⟨mk, hrow⟩ := exists_byteRow d ho
    exact ⟨_, (decode_byte_layout hrow hr rfl).trans (if_neg (not_not.mpr hz))⟩
  · exact ⟨_, decode_timeout_layout d hr ho⟩
  · obtain ⟨i, hrow⟩ := exists_noneRow ho
    exact ⟨i, (decode_none_layout d hrow hr rfl).trans (if_neg (not_not.mpr hz))⟩

/-! ### No instruction raises ILLEGAL_COMMAND (R83, R86) -/

theorem edgeVerdict_ne_fault (s : State) (e : FaultCode) : edgeVerdict s ≠ .fault e := by
  unfold edgeVerdict
  cases s.phase with
  | unalloc | callback => simp
  | ready => cases s.irqOk <;> simp

theorem handleVerdict_ne_illegal (s : State) : handleVerdict s ≠ .fault .illegalCommand := by
  unfold handleVerdict
  cases s.phase <;> simp

/-- No entry of the acceptance table is ILLEGAL_COMMAND. -/
theorem verdict_ne_illegal (i : Instr) (s : State) : verdict i s ≠ .fault .illegalCommand := by
  cases i with
  | edgeRise b now | edgeFall b now => exact edgeVerdict_ne_fault s _
  | submit v | setIdleByte v | setTimeout v | setClockRole v | setSpeed v => exact handleVerdict_ne_illegal s
  | alloc r x a q =>
    unfold verdict
    cases s.phase with
    | unalloc => cases a <;> simp
    | ready | callback => simp
  | free | cbRet =>
    unfold verdict
    cases s.phase <;> simp

theorem exec_fault_ne_illegal (hf : s.fault = .none) (h : exec i s = .next t) : t.fault ≠ .illegalCommand := by
  have ha := exec_answers i hf
  have hv := verdict_ne_illegal i s
  rw [h] at ha
  generalize verdict i s = w at ha hv
  cases w with
  | execute =>
    obtain ⟨_, ⟨⟩, he⟩ := ha
    simp [effect_fault he, hf]
  | ignore | hold =>
    obtain ⟨_, ⟨⟩⟩ := ha
    simp [hf]
  | fault e =>
    obtain ⟨_, ⟨⟩⟩ := ha
    exact fun he => hv (congrArg Verdict.fault he)

/-- Settles O3: the words that decode are the legal ones, an illegal word is taken past the held EDGEs and faults, and
ILLEGAL_COMMAND is in no entry of the acceptance table. -/
theorem illegalWordsFaultInEveryPhase : Obligations.IllegalWordsFaultInEveryPhase := by
  intro s held rest c hf hh hport
  refine ⟨fun hbad => ?_, fun hok => ?_⟩
  · cases hd : decode c with
    | ok i => exact absurd (legalBits_of_decode hd) hbad
    | error e => exact step_past_illegal hf hh hport hd
  · obtain ⟨i, hi⟩ := decode_of_legalBits c.side hok
    exact ⟨i, hi, fun _ _ hu h => exec_fault_ne_illegal hu h⟩

end Sys2Proof.Machine
end

section
/-! The assembler (R54, R55): the word of each form as a number, the lines refused, and the pseudo-instructions. -/

namespace Sys2Proof

/-! ### A command word as a number (R44, R47, R48) -/

theorem mkWord_toNat (op : BitVec 8) (p : BitVec 32) : (mkWord op p).toNat = op.toNat * 2 ^ 56 + p.toNat := by
  simp only [mkWord, BitVec.toNat_append, BitVec.toNat_ofNat, Nat.zero_mod, Nat.zero_shiftLeft, Nat.zero_or]
  rw [← Nat.shiftLeft_add_eq_or_of_lt (by omega), Nat.shiftLeft_eq]

theorem bytePayload_toNat (v : BitVec 8) : (bytePayload v).toNat = v.toNat := by
  simp only [bytePayload, BitVec.toNat_append, BitVec.toNat_ofNat, Nat.zero_mod, Nat.zero_shiftLeft, Nat.zero_or]

theorem edgePayload_toNat (s lvl : Bool) : (edgePayload s lvl).toNat = 2 * s.toNat + lvl.toNat := by
  cases s <;> cases lvl <;> rfl

theorem mkWord_eq_ofNat {op : BitVec 8} {p : BitVec 32} {n m : Nat} (ho : op.toNat = n) (hp : p.toNat = m) :
    mkWord op p = BitVec.ofNat 64 (n * 2 ^ 56 + m) := by
  rw [← ho, ← hp, ← mkWord_toNat, BitVec.ofNat_toNat, BitVec.setWidth_eq]

/-- The word of a byte operand written in range. -/
theorem byteWord_eq_ofNat (op : BitVec 8) {v : Nat} (hv : v < 256) :
    mkWord op (bytePayload (BitVec.ofNat 8 v)) = BitVec.ofNat 64 (op.toNat * 2 ^ 56 + v) :=
  mkWord_eq_ofNat rfl (by rw [bytePayload_toNat, BitVec.toNat_ofNat, Nat.mod_eq_of_lt hv])

theorem timeoutWord_eq_ofNat {t : Nat} (ht : t < 2 ^ 32) :
    mkWord 0x12#8 (BitVec.ofNat 32 t) = BitVec.ofNat 64 (0x12 * 2 ^ 56 + t) :=
  mkWord_eq_ofNat rfl (by rw [BitVec.toNat_ofNat, Nat.mod_eq_of_lt ht])

theorem edgeWord_eq_ofNat (s lvl : Bool) :
    mkWord 0x01#8 (edgePayload s lvl) = BitVec.ofNat 64 (0x01 * 2 ^ 56 + 2 * s.toNat + lvl.toNat) := by
  rw [mkWord_eq_ofNat rfl (edgePayload_toNat s lvl), Nat.add_assoc]
  rfl

/-! ### Operand ranges -/

theorem bitOk_iff {n : Nat} : bitOk n = true ↔ n < 2 := decide_eq_true_iff

theorem byteOk_iff {n : Nat} : byteOk n = true ↔ n < 256 := decide_eq_true_iff

theorem microsOk_iff {n : Nat} : microsOk n = true ↔ n < 2 ^ 32 := decide_eq_true_iff

theorem timeOk_iff {n : Nat} : timeOk n = true ↔ n < 2 ^ 64 := decide_eq_true_iff

theorem wf_edgeRise_iff {b t : Nat} : (AsmLine.edgeRise b t).wf = true ↔ b < 2 ∧ t < 2 ^ 64 := by
  simp only [AsmLine.wf, Bool.and_eq_true, bitOk_iff, timeOk_iff]

theorem wf_edge_iff {l b t : Nat} : (AsmLine.edge l b t).wf = true ↔ (l < 2 ∧ b < 2) ∧ t < 2 ^ 64 := by
  simp only [AsmLine.wf, Bool.and_eq_true, bitOk_iff, timeOk_iff]

theorem wf_alloc_iff {v : Nat} {x : Ctx} {ok irq : Option Nat} :
    (AsmLine.alloc v x ok irq).wf = true ↔ (v < 256 ∧ ok.all bitOk = true) ∧ irq.all bitOk = true := by
  simp only [AsmLine.wf, Bool.and_eq_true, byteOk_iff]

theorem asmBit_toNat {n : Nat} (h : n < 2) : (asmBit n).toNat = n := by
  interval_cases n <;> rfl

theorem asmBit_ite (b : Bool) : asmBit (if b then 1 else 0) = b := by
  cases b <;> rfl

theorem assemble_wf {l : AsmLine} (h : l.wf = true) : assemble l = some (l.expand.map encode) := if_pos h

theorem assemble_ill_formed {l : AsmLine} (h : ¬ l.wf = true) : assemble l = none := if_neg h

/-! ### The forms with operands in range -/

theorem assemble_edgeRise {b t : Nat} (hb : b < 2) (ht : t < 2 ^ 64) :
    (assemble (.edgeRise b t)).map (·.map (fun c => (c.word, c.side.now))) =
      some [(BitVec.ofNat 64 (0x01 * 2 ^ 56 + 2 * b + 1), BitVec.ofNat 64 t)] := by
  have hw := edgeWord_eq_ofNat (asmBit b) true
  rw [asmBit_toNat hb, Bool.toNat_true] at hw
  rw [assemble_wf (wf_edgeRise_iff.mpr ⟨hb, ht⟩), ← hw]
  rfl

theorem assemble_edge {l b t : Nat} (hl : l < 2) (hb : b < 2) (ht : t < 2 ^ 64) :
    (assemble (.edge l b t)).map (·.map (fun c => (c.word, c.side.now))) =
      some [(BitVec.ofNat 64 (0x01 * 2 ^ 56 + 2 * b + l), BitVec.ofNat 64 t)] := by
  have hw := edgeWord_eq_ofNat (asmBit b) (asmBit l)
  rw [asmBit_toNat hb, asmBit_toNat hl] at hw
  rw [assemble_wf (wf_edge_iff.mpr ⟨⟨hl, hb⟩, ht⟩), ← hw]
  simp only [AsmLine.expand]
  cases asmBit l <;> rfl

/-- A line of one instruction with a byte operand in range. -/
theorem assemble_byteOperand {line : AsmLine} {v : Nat} {mk : BitVec 8 → Instr} (op : BitVec 8) (hv : v < 256)
    (hwf : line.wf = byteOk v) (hexp : line.expand = [mk (BitVec.ofNat 8 v)])
    (henc : ∀ x, encodeWord (mk x) = mkWord op (bytePayload x)) :
    (assemble line).map (·.map (·.word)) = some [BitVec.ofNat 64 (op.toNat * 2 ^ 56 + v)] := by
  rw [assemble_wf (hwf ▸ byteOk_iff.mpr hv), hexp, ← byteWord_eq_ofNat op hv, ← henc]
  rfl

theorem assemble_alloc {v : Nat} (hv : v < 256) (x : Ctx) {ok irq : Option Nat} (hok : ok ∈ [none, some 0, some 1])
    (hirq : irq ∈ [none, some 0, some 1]) :
    (assemble (.alloc v x ok irq)).map (·.map (fun c => (c.word, c.side.ctx, c.side.allocOk, c.side.irqOk))) =
      some [(BitVec.ofNat 64 (0x20 * 2 ^ 56 + v), x, decide (ok ≠ some 0), decide (irq ≠ some 0))] := by
  have hflag : ∀ o ∈ [none, some 0, some 1], o.all bitOk = true ∧ asmBit (o.getD 1) = decide (o ≠ some 0) := by decide
  obtain ⟨hokRange, hokBit⟩ := hflag ok hok
  obtain ⟨hirqRange, hirqBit⟩ := hflag irq hirq
  rw [assemble_wf (wf_alloc_iff.mpr ⟨⟨hv, hokRange⟩, hirqRange⟩), ← hokBit, ← hirqBit]
  exact congrArg (fun w => some [(w, x, asmBit (ok.getD 1), asmBit (irq.getD 1))]) (byteWord_eq_ofNat 0x20#8 hv)

theorem assemble_setTimeout {t : Nat} (ht : t < 2 ^ 32) :
    (assemble (.setTimeout t)).map (·.map (·.word)) = some [BitVec.ofNat 64 (0x12 * 2 ^ 56 + t)] := by
  rw [assemble_wf (l := .setTimeout t) (microsOk_iff.mpr ht), ← timeoutWord_eq_ofNat ht]
  rfl

/-! ### The refused lines -/

theorem assemble_byteOperand_refused {line : AsmLine} {v : Nat} (hwf : line.wf = byteOk v) (hv : 256 ≤ v) :
    assemble line = none :=
  assemble_ill_formed (by rw [hwf, byteOk_iff]; omega)

theorem assemble_edgeRise_refused {b t : Nat} (h : 2 ≤ b ∨ 2 ^ 64 ≤ t) : assemble (.edgeRise b t) = none :=
  assemble_ill_formed (by rw [wf_edgeRise_iff]; omega)

theorem assemble_edge_refused {l b t : Nat} (h : 2 ≤ l ∨ 2 ≤ b ∨ 2 ^ 64 ≤ t) : assemble (.edge l b t) = none :=
  assemble_ill_formed (by rw [wf_edge_iff]; omega)

theorem assemble_setTimeout_refused {t : Nat} (h : 2 ^ 32 ≤ t) : assemble (.setTimeout t) = none :=
  assemble_ill_formed fun hwf => absurd (microsOk_iff.mp hwf) (Nat.not_lt.mpr h)

theorem assemble_alloc_refused {v : Nat} {x : Ctx} {ok irq : Option Nat}
    (h : 256 ≤ v ∨ ∃ a, 2 ≤ a ∧ (ok = some a ∨ irq = some a)) : assemble (.alloc v x ok irq) = none := by
  refine assemble_ill_formed fun hwf => ?_
  obtain ⟨⟨hv, hok⟩, hirq⟩ := wf_alloc_iff.mp hwf
  rcases h with hv' | ⟨a, ha, rfl | rfl⟩
  · omega
  · exact absurd (bitOk_iff.mp hok) (by omega)
  · exact absurd (bitOk_iff.mp hirq) (by omega)

/-! ### The bit periods of BYTE (R55) -/

/-- The `k`-th bit period is of the bit `n-1-k`, at `t + k·dt`. -/
theorem asmBytePeriods_eq_flatMap (v : Byte) (dt n t : Nat) :
    asmBytePeriods v dt n t =
      (List.range n).flatMap (fun k => asmBitPeriod (v.getLsbD (n - 1 - k)) (t + k * dt)) := by
  induction n generalizing t with
  | zero => rfl
  | succ n ih =>
    rw [asmBytePeriods, ih, List.range_succ_eq_map, List.flatMap_cons, List.flatMap_map]
    congr 1
    · simp
    · refine List.flatMap_congr fun k _ => ?_
      have hbit : n - 1 - k = n + 1 - 1 - k.succ := by omega
      have htime : t + dt + k * dt = t + k.succ * dt := by rw [Nat.succ_mul]; omega
      rw [hbit, htime]

/-! ### Obligations of 30_encoding: the assembler -/

/-- Settles O7: each form assembles to the encoder's word, which is the number written, and each range is tested. -/
theorem assemblerWords : Obligations.AssemblerWords :=
  ⟨fun _ hb _ ht => assemble_edgeRise hb ht, rfl, fun _ hl _ hb _ ht => assemble_edge hl hb ht,
    fun _ hv => ⟨assemble_byteOperand 0x10#8 hv rfl rfl fun _ => rfl,
      assemble_byteOperand 0x11#8 hv rfl rfl fun _ => rfl, assemble_byteOperand 0x13#8 hv rfl rfl fun _ => rfl,
      assemble_byteOperand 0x14#8 hv rfl rfl fun _ => rfl, fun x _ hok _ hirq => assemble_alloc hv x hok hirq⟩,
    fun _ ht => assemble_setTimeout ht, rfl, rfl,
    fun _ _ _ => ⟨assemble_edgeRise_refused, assemble_edge_refused⟩,
    fun _ hv => ⟨assemble_byteOperand_refused rfl hv, assemble_byteOperand_refused rfl hv,
      assemble_byteOperand_refused rfl hv, assemble_byteOperand_refused rfl hv⟩,
    fun _ ht => assemble_setTimeout_refused ht, fun _ _ _ _ h => assemble_alloc_refused h⟩

/-- Settles O8: BYTE is its bit periods in order, whose bits are those of the number written. -/
theorem pseudoInstructionsExpand : Obligations.PseudoInstructionsExpand := by
  refine ⟨fun b t => ⟨_, rfl⟩, fun v t dt => ?_, fun v => rfl⟩
  refine (asmBytePeriods_eq_flatMap (BitVec.ofNat 8 v) dt 8 t).trans (List.flatMap_congr fun k _ => ?_)
  have hbit : (BitVec.ofNat 8 v).getLsbD (8 - 1 - k) = v.testBit (7 - k) := by
    rw [BitVec.getLsbD_ofNat, decide_eq_true (by omega), Bool.true_and]
  rw [AsmLine.expand, asmBit_ite, hbit]

end Sys2Proof
end

section
/-! The shift engine (41_shift_engine): the two EDGE commands as whole next states, eight rising edges as one byte, and the
acceptance table of R86 read at the step. -/

namespace Sys2Proof.Machine

variable {i : Instr} {s t : State} {b : Bool} {now : Time} {c : Command} {rest : List Command}

/-! ### An EDGE command that is not executed (R57, R58) -/

theorem exec_edge_rejected (hi : isEdge i = true) (ha : ¬ s.AcceptsEdges) : exec i s = .next s := by
  cases i with
  | edgeRise b now | edgeFall b now => exact onEdge_rejects ha
  | _ => cases hi

theorem not_acceptsEdges (h : s.phase = .unalloc ∨ s.irqOk = false ∨ s.phase = .callback) : ¬ s.AcceptsEdges := by
  rintro ⟨_, hp, hq⟩
  rcases h with h | h | h
  · simp [hp] at h
  · simp [hq] at h
  · simp [hp] at h

/-! ### The datapath of the two edges (R60, R61, R63, R65) -/

/-- The staleness test in numbers: the gap modulo 2^64 is compared unsigned and strictly. -/
theorem stale_iff {last : Time} {timeout : Micros} :
    stale now last timeout = true ↔ timeout.toNat < (now - last).toNat := by
  rw [stale, BitVec.ult_iff_lt, BitVec.lt_def, elapsed, BitVec.toNat_setWidth_of_le (by decide)]

theorem not_stale {last : Time} {timeout : Micros} (h : (now - last).toNat ≤ timeout.toNat) :
    ¬ stale now last timeout = true := by
  rw [stale_iff]
  exact h.not_gt

theorem shiftedIn_zero (b : Bool) : shiftedIn 0#8 b = sampleByte b := by
  cases b <;> rfl

/-- The outbound shift, bit by bit: the fill bit below the low seven bits. -/
theorem shiftedOut_eq_append (v : Byte) (fill : Bool) : shiftedOut v fill = v.extractLsb' 0 7 ++ BitVec.ofBool fill := by
  refine BitVec.eq_of_getLsbD_eq fun k hk => ?_
  rw [shiftedOut_eq_shiftedIn, BitVec.getLsbD_append]
  cases k with
  | zero =>
    rw [shiftedIn_getLsbD_zero]
    simp
  | succ k =>
    rw [shiftedIn_getLsbD_succ]
    simp [hk, show k < 7 by omega]

theorem promote_eq (s : State) :
    s.promote = { s with
      outActive := if s.outPendingValid then s.outPending else s.idleByte
      outPendingValid := false } := by
  by_cases hv : s.outPendingValid = true
  · rw [promote_pending hv, if_pos hv]
  · rw [promote_idle hv, if_neg hv, ← Bool.eq_false_iff.mpr hv]

theorem boundary_eq (s : State) :
    s.boundary = if s.bitCount = 8#4 then
        { s with bitCount := 0#4, outActive := if s.outPendingValid then s.outPending else s.idleByte,
                 outPendingValid := false, phase := .callback, history := s.history ++ [.callback s.inAccum s.cbCtx] }
      else s := by
  by_cases h8 : s.bitCount = 8#4
  · rw [boundary_at h8, if_pos h8, promote_eq]
    rfl
  · rw [boundary_inside h8, if_neg h8]

theorem boundary_at_phase (h : s.bitCount = 8#4) : s.boundary.phase = .callback := by
  rw [boundary_eq, if_pos h]

theorem boundary_at_bitCount (h : s.bitCount = 8#4) : s.boundary.bitCount = 0#4 := by
  rw [boundary_eq, if_pos h]

theorem resync_eq (s : State) (now : Time) :
    s.resync now = { s with
      inAccum := if s.timeoutUs.toNat < (now - s.lastEdgeTime).toNat then 0#8 else s.inAccum
      bitCount := if s.timeoutUs.toNat < (now - s.lastEdgeTime).toNat then 0#4 else s.bitCount
      lastEdgeTime := now } := by
  by_cases hs : s.timeoutUs.toNat < (now - s.lastEdgeTime).toNat
  · rw [resync_stale (stale_iff.mpr hs), if_pos hs, if_pos hs]
  · rw [resync_timely (mt stale_iff.mp hs), if_neg hs, if_neg hs]

/-! ### Whole next states -/

/-- Settles O27: without a handle or a handler the block accepts no EDGE. -/
theorem edgesAreIgnoredWithoutAHandler : Obligations.EdgesAreIgnoredWithoutAHandler :=
  fun _ _ hi h => exec_edge_rejected hi (not_acceptsEdges (h.imp_right .inl))

/-- Settles O17: the three parts of the handler, each by its conditions, compose to the state written. -/
theorem edgeRiseShiftsInABit : Obligations.EdgeRiseShiftsInABit := by
  refine ⟨fun _ => ⟨rfl, rfl⟩, fun b now s hf => ⟨fun h => exec_edge_rejected rfl (not_acceptsEdges h), ?_⟩⟩
  rintro count acc hp hq rfl rfl
  rw [exec_rise ⟨hf, hp, hq⟩, boundary_eq, resync_eq]
  rfl

/-- Settles O18: an executed EDGE_FALL is one `driveBit`. -/
theorem edgeFallDrivesABit : Obligations.EdgeFallDrivesABit := by
  refine ⟨fun _ => rfl, fun b now s hf => ⟨fun h => exec_edge_rejected rfl (not_acceptsEdges h), fun hp hq => ?_⟩⟩
  rw [← shiftedOut_eq_append]
  exact onEdge_accepts ⟨hf, hp, hq⟩

/-- A stale gap clears the partial byte first, so the shift starts from 0 and the count is 1, inside a byte. -/
theorem exec_rise_stale (ha : s.AcceptsEdges) (hgap : s.timeoutUs.toNat < (now - s.lastEdgeTime).toNat) (b : Bool) :
    exec (.edgeRise b now) s = .next { s with inAccum := sampleByte b, bitCount := 1#4, lastEdgeTime := now } := by
  rw [exec_rise ha, resync_stale (stale_iff.mpr hgap), boundary_inside (by decide : 0#4 + 1#4 ≠ 8#4), State.shiftIn,
    shiftedIn_zero]
  rfl

/-- Settles O38: what stood in `in_accum` and `bit_count` is not in the state after a stale gap. -/
theorem staleGapDiscardsThePartialByte : Obligations.StaleGapDiscardsThePartialByte :=
  fun b _ s acc n hf hp hq hgap => exec_rise_stale (s := { s with inAccum := acc, bitCount := n }) ⟨hf, hp, hq⟩ hgap b

/-! ### Eight rising edges (EX-1) -/

theorem sampled_rise (ha : s.AcceptsEdges) (b : Bool) (now : Time) : sampled (.edgeRise b now) s = [b] := if_pos ha

theorem samplesOf_concat {is : List Instr} (h : execAll is s = .next t) (i : Instr) :
    samplesOf (is ++ [i]) s = sampled i t ++ samplesOf is s := by
  induction is generalizing s with
  | nil =>
    cases h
    obtain ⟨u, hu⟩ := exec_total i t
    rw [List.nil_append, samplesOf_cons hu, samplesOf, samplesOf, List.append_nil, List.nil_append]
  | cons j js ih =>
    obtain ⟨u, hu, ht⟩ := execAll_cons_next.mp h
    rw [List.cons_append, samplesOf_cons hu, samplesOf_cons hu, ih ht, List.append_assoc]

/-- The commands of `k` rising edges, in order. -/
def rises {k : Nat} (b : Fin k → Bool) (n : Fin k → Time) : List Instr := List.ofFn fun j => .edgeRise (b j) (n j)

theorem rises_succ {k : Nat} (b : Fin (k + 1) → Bool) (n : Fin (k + 1) → Time) :
    rises b n = rises (fun j => b j.castSucc) (fun j => n j.castSucc) ++ [.edgeRise (b (.last k)) (n (.last k))] := by
  rw [rises, List.ofFn_succ', List.concat_eq_append]
  rfl

/-- The newest of `k + 1` samples stands first. -/
theorem reverse_ofFn_succ {k : Nat} (b : Fin (k + 1) → Bool) :
    (List.ofFn b).reverse = b (.last k) :: (List.ofFn fun j => b j.castSucc).reverse := by
  rw [List.ofFn_succ', List.concat_eq_append, List.reverse_concat]

/-- `t` is `s` inside a byte: `count` bits are shifted in, the last of them at the time `last`. -/
def State.InsideByte (s t : State) (count : BitCount) (last : Time) : Prop :=
  t = { s with inAccum := t.inAccum, bitCount := count, lastEdgeTime := last }

section

variable {count : BitCount} {last : Time}

theorem State.InsideByte.acceptsEdges (ht : s.InsideByte t count last) (ha : s.AcceptsEdges) : t.AcceptsEdges := by
  rw [ht]
  exact ha

theorem State.InsideByte.bitCount (ht : s.InsideByte t count last) : t.bitCount = count := congrArg State.bitCount ht

/-- Between bytes the first edge starts a byte, whatever the gap before it. -/
theorem rise_starts_byte (ha : s.AcceptsEdges) (h0 : s.bitCount = 0#4) (b : Bool) (now : Time) :
    ∃ t, exec (.edgeRise b now) s = .next t ∧ s.InsideByte t 1#4 now := by
  obtain ⟨acc, hr⟩ := resync_between_bytes now h0
  refine ⟨(s.resync now).shiftIn b, ?_, ?_⟩
  · rw [exec_rise ha, boundary_inside (by simp [h0])]
  · rw [hr, State.shiftIn, h0]
    rfl

/-- Inside a byte a timely edge counts one bit more, before the test for the boundary. -/
theorem shiftIn_insideByte (ht : s.InsideByte t count last) (hgap : (now - last).toNat ≤ s.timeoutUs.toNat) (b : Bool) :
    s.InsideByte ((t.resync now).shiftIn b) (count + 1#4) now := by
  rw [ht, resync_timely (not_stale hgap)]
  rfl

end

/-- Up to seven edges, timely after the first, stay inside the byte they start, and each shifts in its sample. -/
theorem execAll_rises_inside {k : Nat} (b : Fin (k + 1) → Bool) (n : Fin (k + 1) → Time) (hk : k < 7)
    (ha : s.AcceptsEdges) (h0 : s.bitCount = 0#4)
    (hgap : ∀ j : Fin k, (n j.succ - n j.castSucc).toNat ≤ s.timeoutUs.toNat) :
    ∃ t, execAll (rises b n) s = .next t ∧ s.InsideByte t (BitVec.ofNat 4 (k + 1)) (n (.last k)) ∧
      samplesOf (rises b n) s = (List.ofFn b).reverse := by
  induction k with
  | zero =>
    obtain ⟨t, he, ht⟩ := rise_starts_byte ha h0 (b 0) (n 0)
    refine ⟨t, execAll_cons_next.mpr ⟨t, he, rfl⟩, ht, ?_⟩
    exact (samplesOf_concat (is := []) rfl _).trans (congrArg (· ++ []) (sampled_rise ha (b 0) (n 0)))
  | succ k ih =>
    obtain ⟨t, hrun, ht, hsamples⟩ :=
      ih (fun j => b j.castSucc) (fun j => n j.castSucc) (by omega) fun j => hgap j.castSucc
    have hta := ht.acceptsEdges ha
    have hu := shiftIn_insideByte ht (hgap (.last k)) (b (.last (k + 1)))
    rw [← BitVec.ofNat_add] at hu
    have h8 : BitVec.ofNat 4 (k + 1 + 1) ≠ 8#4 := by bv_omega
    refine ⟨_, ?_, hu, ?_⟩
    · rw [rises_succ, execAll_concat_next]
      refine ⟨t, hrun, ?_⟩
      rw [← Fin.succ_last, exec_rise hta, boundary_inside (hu.bitCount ▸ h8)]
    · rw [rises_succ, samplesOf_concat hrun, hsamples, sampled_rise hta, reverse_ofFn_succ b]
      rfl

theorem getD_reverse_ofFn {m : Nat} (b : Fin (m + 1) → Bool) (k : Fin (m + 1)) :
    (List.ofFn b).reverse.getD (m - k.val) false = b k := by
  have hk : m - (m - k.val) = k.val := by omega
  simp [-List.ofFn_succ, show m - k.val < m + 1 by omega, hk]

/-- Bit `k` from the top of the byte of eight samples is the `k`-th of them. -/
theorem byteOfSamples_reverse_ofFn (b : Fin 8 → Bool) (k : Fin 8) :
    (byteOfSamples (List.ofFn b).reverse).getLsbD (7 - k.val) = b k := by
  rw [byteOfSamples, BitVec.getLsbD_ofFnLE, dif_pos (by omega : 7 - k.val < 8)]
  exact getD_reverse_ofFn b k

/-- Settles O42: seven edges stay inside the byte, the eighth completes it, and by R31 (O43) its bits are the eight
samples, the newest in bit 0. -/
theorem eightRisesCompleteOneByte : Obligations.EightRisesCompleteOneByte := by
  intro b n s ha h0 hgap
  obtain ⟨t, hrun, ht, hsamples⟩ := execAll_rises_inside (k := 6) (fun j => b j.castSucc) (fun j => n j.castSucc)
    (by decide) ha h0 fun j => hgap j.castSucc
  have hta := ht.acceptsEdges ha
  have h8 := (shiftIn_insideByte ht (hgap (.last 6)) (b (.last 7))).bitCount
  have hrise : exec (.edgeRise (b (.last 7)) (n (.last 7))) t = .next _ := exec_rise hta
  have hbyte := completedByteIsTheLastEightSamples _ _ _ s t _ hrun hta hrise (boundary_at_phase h8) (by simp [hsamples])
  have hhistory : t.history = s.history := by rw [ht]
  have hctx : t.cbCtx = s.cbCtx := by rw [ht]
  rw [hsamples, ← reverse_ofFn_succ, hhistory, hctx] at hbyte
  refine ⟨_, _, ?_, boundary_at_phase h8, boundary_at_bitCount h8, hbyte, byteOfSamples_reverse_ofFn b⟩
  exact (congrArg (execAll · s) (rises_succ b n)).trans ((execAll_concat_next _).mpr ⟨t, hrun, hrise⟩)

/-! ### The acceptance table at the step (R86) -/

theorem verdict_of_isEdge (hi : isEdge i = true) (s : State) : verdict i s = edgeVerdict s := by
  cases i with
  | edgeRise b now | edgeFall b now => rfl
  | _ => cases hi

/-- What the table ignores or holds is an EDGE, and it changes nothing. -/
theorem passed_edge (hf : s.fault = .none) (hv : verdict i s = .ignore ∨ verdict i s = .hold) :
    isEdge i = true ∧ exec i s = .next s := by
  have ha := exec_answers i hf
  rcases hv with hv | hv
  · rwa [hv] at ha
  · rwa [hv] at ha

theorem edgeVerdict_hold_iff (s : State) : edgeVerdict s = .hold ↔ s.phase = .callback := by
  unfold edgeVerdict
  cases hp : s.phase with
  | unalloc | callback => simp
  | ready => cases s.irqOk <;> simp

theorem phase_of_hold (hf : s.fault = .none) (hv : verdict i s = .hold) : s.phase = .callback := by
  obtain ⟨hi, _⟩ := passed_edge hf (.inr hv)
  rwa [verdict_of_isEdge hi, edgeVerdict_hold_iff] at hv

theorem phase_of_ignore (hf : s.fault = .none) (hv : verdict i s = .ignore) : s.phase ≠ .callback := by
  obtain ⟨hi, _⟩ := passed_edge hf (.inl hv)
  intro hp
  rw [verdict_of_isEdge hi, (edgeVerdict_hold_iff s).mpr hp] at hv
  cases hv

/-- An ignored command leaves the port, and nothing else changes. -/
theorem step_ignored (hf : s.fault = .none) (hport : s.port = c :: rest) (hd : decode c = .ok i)
    (hv : verdict i s = .ignore) : step s = .next (s.withPort rest) := by
  have hfree : (s.holdsEdges && isEdge i) = false := by
    rw [holdsEdges_elsewhere (phase_of_ignore hf hv), Bool.false_and]
  obtain ⟨_, hexec⟩ := passed_edge hf (.inl hv)
  rw [step_past_legal (held := []) hf (.inl rfl) hport hd hfree]
  exact exec_withPort hexec rest

/-- A held command stays before whatever is taken behind it. -/
theorem takeCommand_held {hold : Bool} (hc : (hold && isEdgeCommand c) = true) (cs : List Command) :
    takeCommand hold (c :: cs) = (takeCommand hold cs).map fun (d, rest) => (d, c :: rest) := by
  rw [takeCommand, if_pos hc]
  cases takeCommand hold cs <;> rfl

theorem mem_of_takeCommand {hold : Bool} {p : List Command} (h : takeCommand hold p = some (c, rest)) : c ∈ p := by
  obtain ⟨before, after, rfl, _⟩ := takeCommand_split h
  simp

theorem exec_port (h : exec i s = .next t) : t.port = s.port := by
  obtain ⟨_, hport, _⟩ := registersHaveOnlyTheirWriters i s t h
  exact hport

/-- R72, R90: only a CB_RET leaves CALLBACK, and it leaves it for READY. -/
theorem exec_from_callback (hp : s.phase = .callback) (h : exec i s = .next t) :
    t.phase = .callback ∨ (t.phase = .ready ∧ i = .cbRet) := by
  by_cases hne : t.phase = s.phase
  · exact .inl (hne.trans hp)
  · rcases phaseChanges i s t h hne with ⟨hp', _⟩ | ⟨hp', _⟩ | ⟨hp', _⟩ | ⟨_, ht, hi⟩
    · simp [hp] at hp'
    · simp [hp] at hp'
    · simp [hp] at hp'
    · exact .inr ⟨ht, hi⟩

/-- A held command stays first in the port: the block waits, or takes a command behind it. The phase stays CALLBACK unless
that is a CB_RET. -/
theorem step_holds_first (hf : s.fault = .none) (hinv : s.Inv) (hport : s.port = c :: rest) (hd : decode c = .ok i)
    (hv : verdict i s = .hold) :
    ∃ t waiting, step s = .next t ∧ t.port = c :: waiting ∧
      (t.phase = .callback ∨ (t.phase = .ready ∧ ∃ d ∈ rest, decode d = .ok .cbRet)) := by
  have hp := phase_of_hold hf hv
  obtain ⟨hi, _⟩ := passed_edge hf (.inr hv)
  obtain ⟨_, hcallback, _⟩ := hinv
  obtain ⟨_, hq, _⟩ := hcallback hp
  have hheld : (s.holdsEdges && isEdgeCommand c) = true := by
    rw [holdsEdges_callback hp hq, isEdgeCommand_ok hd, hi, Bool.and_self]
  have htake := takeCommand_held hheld rest
  rw [← hport] at htake
  cases hbehind : takeCommand s.holdsEdges rest with
  | none =>
    rw [hbehind] at htake
    exact ⟨s, rest, by rw [step_of_take_none htake, whenClear_next_self], hport, .inl hp⟩
  | some taken =>
    obtain ⟨d, waiting⟩ := taken
    rw [hbehind] at htake
    cases hdd : decode d with
    | ok j =>
      obtain ⟨t, ht⟩ := exec_total j (s.withPort (c :: waiting))
      refine ⟨t, waiting, by rw [step_of_take_legal htake hdd, whenClear_good hf, ht], exec_port ht, ?_⟩
      rcases exec_from_callback (s := s.withPort (c :: waiting)) hp ht with hstay | ⟨hready, rfl⟩
      · exact .inl hstay
      · exact .inr ⟨hready, d, mem_of_takeCommand hbehind, hdd⟩
    | error e =>
      exact ⟨(s.withPort (c :: waiting)).withFault .illegalCommand, waiting,
        by rw [step_of_take_illegal htake hdd, whenClear_good hf, raise_eq], rfl, .inl hp⟩

/-- Settles O14: each entry of the table by `exec_answers`, then an ignored, a held and an illegal command at the step. -/
theorem acceptanceTable : Obligations.AcceptanceTable := by
  refine ⟨fun i s hf => ?_, fun s c rest i hf hport hd => ⟨step_ignored hf hport hd, fun hv hinv => ?_⟩,
    fun s held rest c e hf hh hport hd => step_past_illegal hf hh hport hd⟩
  · have ha := exec_answers i hf
    generalize verdict i s = w at ha
    cases w with
    | execute =>
      obtain ⟨t, h, he⟩ := ha
      exact ⟨t, h, (effect_fault he).trans hf⟩
    | ignore | hold =>
      obtain ⟨_, h⟩ := ha
      exact h
    | fault e => exact ha
  · exact step_holds_first hf hinv hport hd hv

end Sys2Proof.Machine
end

section
/-! The outbound queue (42_transfer_queue): SUBMIT and SET_IDLE_BYTE as whole next states, and of two SUBMITs the second. -/

namespace Sys2Proof.Machine

variable {i : Instr} {is : List Instr} {s u : State}

/-! ### A command with one byte operand on the handle (R48, R71, R86) -/

theorem byteWord_eq_append (op v : BitVec 8) : mkWord op (bytePayload v) = (op ++ 0#48) ++ v := by
  apply BitVec.eq_of_toNat_eq
  simp only [mkWord_toNat, bytePayload_toNat, BitVec.toNat_append, BitVec.toNat_ofNat, Nat.zero_mod, Nat.or_zero]
  rw [← Nat.shiftLeft_add_eq_or_of_lt v.isLt, ← Nat.shiftLeft_add, Nat.shiftLeft_eq]

/-- The two rows of the table for a command behind `onHandle`, by the phase. -/
theorem onHandle_by_phase (hf : s.fault = .none) (u : State) :
    (s.phase = .ready ∨ s.phase = .callback → onHandle s (.next u) = .next u) ∧
    (s.phase = .unalloc → onHandle s (.next u) = .next { s with fault := .notAllocated }) := by
  refine ⟨fun hp => onHandle_executes hf ?_, onHandle_unalloc hf⟩
  rcases hp with hp | hp <;> simp [hp]

/-- Settles O19: the word by its fields, and SUBMIT is a command on the handle whose two branches are `loadByte` and
`queueByte`. -/
theorem submitWritesActiveOrPending : Obligations.SubmitWritesActiveOrPending :=
  fun v _ => ⟨byteWord_eq_append 0x10#8 v, fun hf => onHandle_by_phase hf _⟩

/-- Settles O20: the word by its fields, and SET_IDLE_BYTE is a command on the handle. -/
theorem setIdleByteWritesTheIdleByte : Obligations.SetIdleByteWritesTheIdleByte :=
  fun v _ => ⟨byteWord_eq_append 0x11#8 v, fun hf => onHandle_by_phase hf _⟩

/-! ### Two SUBMITs with nothing between them (R68) -/

theorem execAll_cons_of_next (h : exec i s = .next u) : execAll (i :: is) s = execAll is u := by rw [execAll, h]

/-- The write of SUBMIT leaves `bit_count` alone, so a second one takes the same branch and writes the same two fields. -/
theorem exec_submit_after_submit {v : Byte} (w : Byte) (h : Effect (.submit v) s u) :
    exec (.submit w) u = exec (.submit w) s := by
  obtain ⟨hf, hp, rfl⟩ := h
  by_cases h0 : s.bitCount = 0#4
  · have alone : Effect (.submit w) s (s.loadByte w) := ⟨hf, hp, (if_pos h0).symm⟩
    have after : Effect (.submit w) (s.loadByte v) (s.loadByte w) := ⟨hf, hp, (if_pos h0).symm⟩
    rw [if_pos h0, exec_of_effect alone, exec_of_effect after]
  · have alone : Effect (.submit w) s (s.queueByte w) := ⟨hf, hp, (if_neg h0).symm⟩
    have after : Effect (.submit w) (s.queueByte v) (s.queueByte w) := ⟨hf, hp, (if_neg h0).symm⟩
    rw [if_neg h0, exec_of_effect alone, exec_of_effect after]

/-- Settles O39: a faulted block runs neither SUBMIT, in UNALLOC the fault of the first is that of the second, and otherwise
the second writes over the first. -/
theorem lastSubmitWins : Obligations.LastSubmitWins := by
  intro v w s
  obtain ⟨u, hv, hw⟩ : ∃ u, exec (.submit v) s = .next u ∧ exec (.submit w) u = exec (.submit w) s := by
    rcases onHandle_cases s (.next (if s.bitCount = 0#4 then s.loadByte v else s.queueByte v)) with
      ⟨_, hv⟩ | ⟨hf, hp, hv⟩ | ⟨hf, hp, hv⟩
    · exact ⟨s, hv, rfl⟩
    · have hfaulted : exec (.submit w) (s.withFault .notAllocated) = .next (s.withFault .notAllocated) :=
        exec_faulted _ (by simp)
      exact ⟨_, hv, hfaulted.trans (onHandle_unalloc hf hp).symm⟩
    · exact ⟨_, hv, exec_submit_after_submit w ⟨hf, hp, rfl⟩⟩
  rw [execAll_cons_of_next hv, execAll, execAll, hw]

end Sys2Proof.Machine
end

section
/-! The return from the completion callback (43_callback): CB_RET in each phase. -/

namespace Sys2Proof.Machine

variable {i : Instr} {s : State} {e : FaultCode}

/-- Where the table of R86 says fault, that fault is all that changes (R84). -/
theorem exec_of_verdict_fault (hf : s.fault = .none) (hv : verdict i s = .fault e) :
    exec i s = .next (s.withFault e) := by
  have ha := exec_answers i hf
  rw [hv] at ha
  obtain ⟨_, hexec⟩ := ha
  exact hexec

/-! ### The column of CB_RET in the table (R72, R86) -/

theorem verdict_cbRet_unalloc (hp : s.phase = .unalloc) : verdict .cbRet s = .fault .notAllocated := by rw [verdict, hp]

theorem verdict_cbRet_ready (hp : s.phase = .ready) : verdict .cbRet s = .fault .returnOutsideCallback := by
  rw [verdict, hp]

/-- Settles O26: the encoder's word; in CALLBACK the effect is `leaveCallback`, and in the other phases the table's fault is
raised. -/
theorem cbRetReturnsFromTheCallback : Obligations.CbRetReturnsFromTheCallback :=
  ⟨rfl, fun _ hf =>
    ⟨fun hp => exec_of_effect (i := .cbRet) ⟨hf, hp, rfl⟩,
      fun hp => exec_of_verdict_fault hf (verdict_cbRet_unalloc hp),
      fun hp => exec_of_verdict_fault hf (verdict_cbRet_ready hp)⟩⟩

end Sys2Proof.Machine
end

section
/-! The configuration setters (44_configuration): SET_TIMEOUT, SET_CLOCK_ROLE and SET_SPEED as whole next states, and that no
command reads the two tags. -/

namespace Sys2Proof.Machine

variable {i : Instr} {s t : State}

/-! ### No command reads the tags (R78) -/

/-- The state with other values of the two tags. -/
def State.withTags (s : State) (r p : Tag) : State := { s with clockRole := r, speed := p }

/-- The timeout check, the shift and the boundary leave the tags alone and do the same under any. -/
theorem rise_withTags (s : State) (b : Bool) (now : Time) (r p : Tag) :
    (((s.withTags r p).resync now).shiftIn b).boundary = ((s.resync now).shiftIn b).boundary.withTags r p := by
  rw [boundary_eq, boundary_eq, resync_eq, resync_eq]
  symm
  exact apply_ite (State.withTags · r p) _ _ _

/-- An executed command leaves the tags or writes them from its operand, a parameter or a free value, never from a tag. -/
theorem effect_withTags (h : Effect i s t) (r p : Tag) :
    ∃ r' p', Effect i (s.withTags r p) (t.withTags r' p') := by
  cases i with
  | edgeRise b now =>
    obtain ⟨ha, rfl⟩ := h
    exact ⟨r, p, ha, (rise_withTags s b now r p).symm⟩
  | edgeFall b now =>
    obtain ⟨ha, rfl⟩ := h
    exact ⟨r, p, ha, rfl⟩
  | submit v =>
    obtain ⟨hf, hp, rfl⟩ := h
    exact ⟨r, p, hf, hp, apply_ite (State.withTags · r p) _ _ _⟩
  | setIdleByte v | setTimeout v | cbRet =>
    obtain ⟨hf, hp, rfl⟩ := h
    exact ⟨r, p, hf, hp, rfl⟩
  | setClockRole v =>
    obtain ⟨hf, hp, rfl⟩ := h
    exact ⟨v, p, hf, hp, rfl⟩
  | setSpeed v =>
    obtain ⟨hf, hp, rfl⟩ := h
    exact ⟨r, v, hf, hp, rfl⟩
  | alloc role x a q =>
    obtain ⟨hf, hp, ha, rfl⟩ := h
    exact ⟨role, s.params.speedReset, hf, hp, ha, rfl⟩
  | free =>
    obtain ⟨hf, hp, rfl⟩ := h
    exact ⟨s.release.clockRole, s.release.speed, hf, hp, rfl⟩

/-- The acceptance table does not read the tags, and a command that is not executed keeps them. -/
theorem exec_withTags (h : exec i s = .next t) (r p : Tag) :
    ∃ r' p', exec i (s.withTags r p) = .next (t.withTags r' p') := by
  by_cases hf : s.fault = .none
  · have ha := exec_answers i hf
    have hat := exec_answers (s := s.withTags r p) i hf
    rw [h, verdict_congr (s := s) (t := s.withTags r p) i rfl rfl] at ha
    generalize verdict i (s.withTags r p) = w at ha hat
    cases w with
    | execute =>
      obtain ⟨_, ⟨⟩, he⟩ := ha
      obtain ⟨r', p', he'⟩ := effect_withTags he r p
      exact ⟨r', p', exec_of_effect he'⟩
    | ignore | hold | fault c =>
      obtain ⟨_, ⟨⟩⟩ := ha
      obtain ⟨_, e⟩ := hat
      exact ⟨r, p, e⟩
  · rw [exec_faulted i hf] at h
    cases h
    exact ⟨r, p, exec_faulted i hf⟩

/-- Settles O37: by the acceptance table, and for an executed command by its effect; the states with other tags are written
`withTags`. -/
theorem tagsHaveNoEffect : Obligations.TagsHaveNoEffect := fun _ _ _ r p h => exec_withTags h r p

/-! ### The three setters (R75, R76, R77) -/

theorem mkWord_eq_append (op : BitVec 8) (p : BitVec 32) : mkWord op p = (op ++ 0#24) ++ p :=
  (BitVec.append_assoc (x₁ := op) (x₂ := 0#24) (x₃ := p)).symm

/-- Settles O21: the word by its fields, and SET_TIMEOUT is a command on the handle that writes one field. -/
theorem setTimeoutWritesTheThreshold : Obligations.SetTimeoutWritesTheThreshold :=
  fun v _ => ⟨mkWord_eq_append 0x12#8 v, fun hf => onHandle_by_phase hf _⟩

/-- Settles O22: the word by its fields, and SET_CLOCK_ROLE is a command on the handle that writes the tag after
`clearCount`. -/
theorem setClockRoleDiscardsThePartialByte : Obligations.SetClockRoleDiscardsThePartialByte :=
  fun v _ => ⟨byteWord_eq_append 0x13#8 v, fun hf => onHandle_by_phase hf _⟩

/-- Settles O23: the word by its fields, and SET_SPEED is a command on the handle that writes one field. -/
theorem setSpeedWritesTheTag : Obligations.SetSpeedWritesTheTag :=
  fun v _ => ⟨byteWord_eq_append 0x14#8 v, fun hf => onHandle_by_phase hf _⟩

end Sys2Proof.Machine
end

section
/-! The handle's lifetime (45_lifecycle): ALLOC and FREE in each phase, and the handle whose registration failed. -/

namespace Sys2Proof.Machine

variable {i : Instr} {is : List Instr} {r : Tag} {x : Ctx} {ok q : Bool} {s t u : State}

/-! ### The columns of ALLOC and FREE in the table where they fault (R79 to R81, R86) -/

theorem verdict_alloc_failed (hp : s.phase = .unalloc) : verdict (.alloc r x false q) s = .fault .allocFailed := by
  rw [verdict, hp]
  rfl

theorem verdict_alloc_ready (hp : s.phase = .ready) : verdict (.alloc r x ok q) s = .fault .alreadyAllocated := by
  rw [verdict, hp]

theorem verdict_alloc_callback (hp : s.phase = .callback) :
    verdict (.alloc r x ok q) s = .fault .lifecycleInCallback := by
  rw [verdict, hp]

theorem verdict_free_unalloc (hp : s.phase = .unalloc) : verdict .free s = .fault .notAllocated := by rw [verdict, hp]

theorem verdict_free_callback (hp : s.phase = .callback) : verdict .free s = .fault .lifecycleInCallback := by
  rw [verdict, hp]

/-! ### A handle whose registration failed (R82) -/

/-- The block has a handle without an edge handler, and has put nothing out since `s`. -/
def State.DegradedSince (s t : State) : Prop :=
  t.phase = .ready ∧ t.irqOk = false ∧ t.history = s.history ∧ t.soutQ = s.soutQ

theorem allocate_degraded (s : State) (r : Tag) (x : Ctx) : s.DegradedSince (s.allocate r x false) :=
  ⟨rfl, rfl, rfl, rfl⟩

/-- In READY with no handler no EDGE, ALLOC or CB_RET is executed, and the commands left beside FREE write none of the four
fields. -/
theorem effect_degraded (h : s.DegradedSince t) (hi : i ≠ .free) (he : Effect i t u) : s.DegradedSince u := by
  obtain ⟨hready, hirq, _⟩ := id h
  cases i with
  | edgeRise b now | edgeFall b now =>
    obtain ⟨ha, _⟩ := he
    exact absurd ha (not_acceptsEdges (.inr (.inl hirq)))
  | submit v =>
    obtain ⟨_, _, rfl⟩ := he
    split <;> exact h
  | setIdleByte v | setTimeout v | setClockRole v | setSpeed v =>
    obtain ⟨_, _, rfl⟩ := he
    exact h
  | alloc r x a q | cbRet =>
    obtain ⟨_, hp, _⟩ := he
    simp [hready] at hp
  | free => exact absurd rfl hi

theorem exec_degraded (h : s.DegradedSince t) (hi : i ≠ .free) (hexec : exec i t = .next u) : s.DegradedSince u := by
  rcases exec_cases hexec with rfl | ⟨_, _, _, rfl⟩ | he
  · exact h
  · exact h
  · exact effect_degraded h hi he

theorem execAll_degraded (h : s.DegradedSince t) (his : ∀ i ∈ is, i ≠ .free) (hrun : execAll is t = .next u) :
    s.DegradedSince u := by
  induction is generalizing t with
  | nil =>
    cases hrun
    exact h
  | cons i is ih =>
    obtain ⟨v, hv, hu⟩ := execAll_cons_next.mp hrun
    obtain ⟨hi, htail⟩ := List.forall_mem_cons.mp his
    exact ih (exec_degraded h hi hv) htail hu

/-- A command that is executed completes without a fault. -/
theorem completes_of_effect (hf : s.fault = .none) (he : Effect i s t) :
    ∃ t', exec i s = .next t' ∧ t'.fault = .none :=
  ⟨t, exec_of_effect he, (effect_fault he).trans hf⟩

/-! ### Obligations of 45_lifecycle -/

/-- Settles O28: the degraded handle is kept along the run by `execAll_degraded`; without a handler it ignores every EDGE,
and in READY each host command named has its effect. -/
theorem degradedHandleIgnoresTheWire : Obligations.DegradedHandleIgnoresTheWire := by
  intro r x s hf hp
  refine ⟨s.allocate r x false, exec_of_effect ⟨hf, hp, rfl, rfl⟩, rfl, rfl, fun is u his hrun => ?_⟩
  obtain ⟨hready, hirq, hhistory, hsout⟩ := execAll_degraded (allocate_degraded s r x) his hrun
  refine ⟨hready, hirq, hhistory, hsout, fun i hi => edgesAreIgnoredWithoutAHandler i u hi (.inr hirq), fun hu v => ?_⟩
  have handle : u.phase ≠ .unalloc := by simp [hready]
  exact ⟨completes_of_effect hu ⟨hu, handle, rfl⟩, completes_of_effect hu ⟨hu, handle, rfl⟩,
    completes_of_effect hu ⟨hu, handle, rfl⟩, completes_of_effect hu ⟨hu, handle, rfl⟩,
    fun _ => completes_of_effect hu ⟨hu, handle, rfl⟩, completes_of_effect hu ⟨hu, hready, rfl⟩⟩

/-- Settles O24: the word by its fields; in UNALLOC a successful ALLOC has the effect `allocate`, and elsewhere the table's
fault is raised. -/
theorem allocResetsTheBlock : Obligations.AllocResetsTheBlock :=
  fun r x _ q _ => ⟨byteWord_eq_append 0x20#8 r, fun hf =>
    ⟨fun hp => exec_of_effect (i := .alloc r x true q) ⟨hf, hp, rfl, rfl⟩,
      fun hp => exec_of_verdict_fault hf (verdict_alloc_failed hp),
      fun hp => exec_of_verdict_fault hf (verdict_alloc_ready hp),
      fun hp => exec_of_verdict_fault hf (verdict_alloc_callback hp)⟩⟩

/-- Settles O25: the encoder's word; in READY the effect is `release`, which keeps the fault register, and in the other
phases the table's fault is raised. -/
theorem freeReleasesTheHandle : Obligations.FreeReleasesTheHandle :=
  ⟨rfl, fun s hf =>
    ⟨fun hp => ⟨s.release, exec_of_effect ⟨hf, hp, rfl⟩, rfl, rfl, rfl, hf, rfl, rfl, rfl⟩,
      fun hp => exec_of_verdict_fault hf (verdict_free_unalloc hp),
      fun hp => exec_of_verdict_fault hf (verdict_free_callback hp)⟩⟩

end Sys2Proof.Machine
end

section
/-! Faults (60_exceptions): the codes, and which fault a command reports when several could apply. -/

namespace Sys2Proof.Machine

variable {i : Instr} {s t : State} {c : Command}

/-! ### The codes (R83) -/

theorem FaultCode.code_ne_seven (c : FaultCode) : c.code ≠ 7#3 := by
  cases c with
  | none | illegalCommand | notAllocated | alreadyAllocated | allocFailed | lifecycleInCallback | returnOutsideCallback =>
    decide

/-- Settles O16: each code by its line in the table, and 7 in none of them. -/
theorem faultCodeValues : Obligations.FaultCodeValues :=
  ⟨rfl, rfl, rfl, rfl, rfl, rfl, rfl, FaultCode.code_ne_seven⟩

/-! ### The legality test comes first (R51, R85) -/

theorem legal_encodeWord (i : Instr) : legal (encodeWord i) = true := by
  cases i with
  | edgeRise b now => exact Laws.EncodesLegally.edgeRise b now
  | edgeFall b now => exact Laws.EncodesLegally.edgeFall b now
  | submit v => exact Laws.EncodesLegally.submit v
  | setIdleByte v => exact Laws.EncodesLegally.setIdleByte v
  | setTimeout v => exact Laws.EncodesLegally.setTimeout v
  | setClockRole r => exact Laws.EncodesLegally.setClockRole r
  | setSpeed p => exact Laws.EncodesLegally.setSpeed p
  | alloc r x a q => exact Laws.EncodesLegally.alloc r x a q
  | free => exact Laws.EncodesLegally.free
  | cbRet => exact Laws.EncodesLegally.cbRet

/-- A command that decodes carries a word of the encoder, so a word that fails R51's test does not decode. -/
theorem decode_error_of_not_legal (hl : legal c.word = false) : ∃ e, decode c = .error e := by
  cases hd : decode c with
  | ok i =>
    have hlegal : legal c.word = true := encodeWord_of_decode hd ▸ legal_encodeWord i
    simp [hl] at hlegal
  | error e => exact ⟨e, rfl⟩

/-! ### An EDGE command after the legality test (R57, R58, R85) -/

/-- The column of the EDGE commands in the table has no fault, and its other entries keep the fault register. -/
theorem exec_edge_fault (hi : isEdge i = true) (hf : s.fault = .none) (h : exec i s = .next t) : t.fault = .none := by
  have ha := exec_answers i hf
  rw [h, verdict_of_isEdge hi] at ha
  cases hv : edgeVerdict s with
  | execute =>
    rw [hv] at ha
    obtain ⟨_, ⟨⟩, he⟩ := ha
    exact (effect_fault he).trans hf
  | ignore | hold =>
    rw [hv] at ha
    obtain ⟨_, ⟨⟩⟩ := ha
    exact hf
  | fault e => exact absurd hv (edgeVerdict_ne_fault s e)

/-- Settles O15: an illegal word is taken past the held EDGEs and faults; ALLOC, FREE and CB_RET report their entry of the
table of R86 in each phase; and the table has no fault for an EDGE. -/
theorem faultPriority : Obligations.FaultPriority := by
  intro s hf
  refine ⟨fun held c rest hh hport hl => ?_,
    fun r x q hp => ⟨exec_of_verdict_fault hf (verdict_alloc_callback hp),
      exec_of_verdict_fault hf (verdict_alloc_callback hp)⟩,
    fun r x q hp => ⟨exec_of_verdict_fault hf (verdict_alloc_ready hp),
      exec_of_verdict_fault hf (verdict_alloc_ready hp)⟩,
    fun r x q hp => exec_of_verdict_fault hf (verdict_alloc_failed hp),
    fun hp => ⟨exec_of_verdict_fault hf (verdict_free_unalloc hp), exec_of_verdict_fault hf (verdict_cbRet_unalloc hp)⟩,
    fun hp => exec_of_verdict_fault hf (verdict_free_callback hp),
    fun hp => exec_of_verdict_fault hf (verdict_cbRet_ready hp),
    fun i t hi h => exec_edge_fault hi hf h⟩
  obtain ⟨e, hd⟩ := decode_error_of_not_legal hl
  exact step_past_illegal hf hh hport hd

end Sys2Proof.Machine
end

section
/-! Reset and hazards (70_reset_and_hazards): a SUBMIT in the callback against the byte the boundary promoted (R99). -/

namespace Sys2Proof.Machine

variable {s : State} {now : Time}

/-- The state in the callback of the byte that a timely edge with sample `b` completes: R60 to R64 with no branch left open. -/
def State.completedBy (s : State) (b : Bool) (now : Time) : State :=
  { s with
    inAccum := shiftedIn s.inAccum b, bitCount := 0#4, lastEdgeTime := now, phase := .callback
    outActive := if s.outPendingValid then s.outPending else s.idleByte, outPendingValid := false
    history := s.history ++ [.callback (shiftedIn s.inAccum b) s.cbCtx] }

theorem exec_rise_completes (ha : s.AcceptsEdges) (h7 : s.bitCount = 7#4)
    (hgap : (now - s.lastEdgeTime).toNat ≤ s.timeoutUs.toNat) (b : Bool) :
    exec (.edgeRise b now) s = .next (s.completedBy b now) := by
  have h8 : (({ s with lastEdgeTime := now } : State).shiftIn b).bitCount = 8#4 := by simp [h7]
  rw [exec_rise ha, resync_timely (not_stale hgap), boundary_eq, if_pos h8]
  rfl

/-- Right after a boundary `bit_count` is 0, so a SUBMIT in the callback takes the branch that writes `out_active`. -/
theorem execAll_submit_cbRet (hf : s.fault = .none) (hp : s.phase = .callback) (h0 : s.bitCount = 0#4) (w : Byte) :
    execAll [.submit w, .cbRet] s = .next (s.loadByte w).leaveCallback := by
  have hsubmit : Effect (.submit w) s (s.loadByte w) := ⟨hf, by simp [hp], (if_pos h0).symm⟩
  have hret : Effect .cbRet (s.loadByte w) (s.loadByte w).leaveCallback := ⟨hf, hp, rfl⟩
  rw [execAll_cons_of_next (exec_of_effect hsubmit), execAll_cons_of_next (exec_of_effect hret), execAll]

/-- Settles O40: the edge completes the byte and promotes, and the callback's SUBMIT loads over what was promoted; neither
it nor CB_RET adds an event to the boundary's Callback. -/
theorem callbackSubmitReplacesThePromotedByte : Obligations.CallbackSubmitReplacesThePromotedByte := by
  intro b now w s ha h7 hgap
  have hrise := exec_rise_completes ha h7 hgap b
  obtain ⟨hf, -, -⟩ := ha
  have hcallback := execAll_submit_cbRet (s := s.completedBy b now) hf rfl rfl w
  have hrun := (execAll_cons_of_next hrise).trans hcallback
  exact ⟨⟨_, hrise, rfl, rfl⟩, _, _, hrun, rfl, rfl, rfl, rfl⟩

end Sys2Proof.Machine
end
